-- ==== Sys2Proof/Syntax.lean ====
section
/-! DEFINITION. The ten commands of the opcode map (30_encoding.md R112). A command word carries no operand
(30_encoding.md R113), so no constructor has an argument. -/

namespace Sys2Proof

/-- One constructor per row of spec/opcode_table.json. -/
inductive Instr where
  /-- NOP, 43_system.md R270. -/
  | nop
  /-- SOFT_RESET, 43_system.md R271. -/
  | softReset
  /-- CONFIGURE, 40_container.md R141. -/
  | configure
  /-- ADD_FRAME, 40_container.md R150. -/
  | addFrame
  /-- FINISH, 40_container.md R160. -/
  | finish
  /-- DIFF_RECT, 40_container.md R180. -/
  | diffRect
  /-- LZW_ENCODE, 41_lzw.md R230. -/
  | lzwEncode
  /-- HASH_INIT, 42_hasher.md R260. -/
  | hashInit
  /-- HASH_EXTEND, 42_hasher.md R261. -/
  | hashExtend
  /-- HASH_SEQ, 42_hasher.md R262. -/
  | hashSeq
  deriving DecidableEq, Repr

end Sys2Proof
end

