-- ==== Sys2Proof/Word.lean ====
section
/-! DEFINITION. The two bit-vector types of the block: 32-bit words and bytes. -/

namespace Sys2Proof

/-- A host-visible register, an IN word, a colour word or a command word: 32 bits moved whole (20_memory.md R85). -/
abbrev Word := BitVec 32

/-- One byte of the output stream (20_memory.md R84). -/
abbrev Byte := BitVec 8

end Sys2Proof
end

