-- ==== Sys2Proof/Decode.lean ====
section
/-! DEFINITION. The command word (30_encoding.md R111, R112): OPCODE in bits [31:24], RSVD in bits [23:0]. Decoding
is total on 32-bit words and rejects by name; the encoder stands after it. -/

namespace Sys2Proof

/-- Why a word is no command (30_encoding.md R116). Both raise ILLEGAL_COMMAND.
DESIGN CHOICE (safe): where both hold, the opcode is named; nothing observes which (log entry 18). -/
inductive Reject where
  /-- OPCODE is not one of the ten of R112. -/
  | unknownOpcode (opcode : BitVec 8)
  /-- RSVD is not all 0. -/
  | reservedBits (rsvd : BitVec 24)
  deriving DecidableEq, Repr

/-- The opcode map of 30_encoding.md R112, row by row. -/
def opcodeTable : List (BitVec 8 × Instr) :=
  [ (0x00#8, .nop),
    (0x01#8, .softReset),
    (0x10#8, .configure),
    (0x11#8, .addFrame),
    (0x12#8, .finish),
    (0x13#8, .diffRect),
    (0x20#8, .lzwEncode),
    (0x30#8, .hashInit),
    (0x31#8, .hashExtend),
    (0x32#8, .hashSeq) ]

/-- The first row of a table with this opcode. -/
def findOpcode (op : BitVec 8) : List (BitVec 8 × Instr) → Option Instr
  | [] => none
  | (o, i) :: rows => if o = op then some i else findOpcode op rows

/-- The OPCODE field of a word (30_encoding.md R111). -/
def opcodeField (w : Word) : BitVec 8 := w.extractLsb' 24 8

/-- The RSVD field of a word (30_encoding.md R111). -/
def rsvdField (w : Word) : BitVec 24 := w.extractLsb' 0 24

/-- The command a word stands for, or why it stands for none (30_encoding.md R110, R116). -/
def decode (w : Word) : Except Reject Instr :=
  match findOpcode (opcodeField w) opcodeTable with
  | none => .error (.unknownOpcode (opcodeField w))
  | some i => if rsvdField w = 0 then .ok i else .error (.reservedBits (rsvdField w))

/-- The opcode of each command (30_encoding.md R112). -/
def opcodeOf : Instr → BitVec 8
  | .nop => 0x00
  | .softReset => 0x01
  | .configure => 0x10
  | .addFrame => 0x11
  | .finish => 0x12
  | .diffRect => 0x13
  | .lzwEncode => 0x20
  | .hashInit => 0x30
  | .hashExtend => 0x31
  | .hashSeq => 0x32

/-- The word of a command: "it equals OPCODE << 24" (30_encoding.md R112). -/
def encode (i : Instr) : Word := (opcodeOf i).setWidth 32 <<< 24

/-- The command word whose low `nbits` bits are those of `w` and whose other bits are 0. A command word is moved
whole (20_memory.md R85), so the table's bit numbers are the word's own. DEDUCED (safe; log entry 20). -/
def tableWord (nbits w : Nat) : Word := BitVec.ofNat 32 (w % 2 ^ nbits)

/-- The command the decoder reads from a word of the opcode table. -/
def decodeTableWord (nbits w : Nat) : Option Instr :=
  match decode (tableWord nbits w) with
  | .ok i => some i
  | .error _ => none

end Sys2Proof
end

