-- ==== Sys2Proof/Machine/Constants.lean ====
section
/-! DEFINITION. The constants EDR fixes (00_scope.md R7), each named once, and the constants of the address map
(20_memory.md R81). -/

namespace Sys2Proof.Machine

/-- HASH_SEED (00_scope.md R7). -/
def hashSeed : Nat := 487

/-- HASH_MULT (00_scope.md R7). -/
def hashMult : Nat := 31

/-- MAX_TABLE: codes 0..4095 (00_scope.md R7). -/
def maxTable : Nat := 4096

/-- BLOCK_MAX: data bytes per sub-block (00_scope.md R7). -/
def blockMax : Nat := 255

/-- SENTINEL_INDEX (00_scope.md R7). -/
def sentinelIndex : Nat := 8

/-- MAX_PALETTE: the number of palette entries (00_scope.md R7). -/
abbrev maxPalette : Nat := 16

/-- TRAILER (00_scope.md R7). -/
def trailerByte : Byte := 0x3B

/-- The ID register's constant (10_state.md R32). -/
def idWord : Word := 0x4C5A5737

/-- First address above the register block (20_memory.md R81). -/
def regEnd : Nat := 0x1000

/-- IN window (20_memory.md R81). -/
def inBase : Nat := 0x01000000

/-- OUT window (20_memory.md R81). -/
def outBase : Nat := 0x02000000

/-- Size in bytes of each window (20_memory.md R81). -/
def windowBytes : Nat := 0x01000000

end Sys2Proof.Machine
end

