-- ==== Sys2Proof/Machine/Bus.lean ====
section
/-! DEFINITION. What the host can send (20_memory.md R97): bus transactions, the reset input, and the script
lines of 30_encoding.md R125 to R130 that are written in terms of them. -/

namespace Sys2Proof.Machine

/-- The register names of 30_encoding.md R126. -/
inductive Reg where
  | id | status | cmd | arg0 | arg1 | width | height | scale | psize | quantum
  | outlen | nframes | hash | rectXY | rectWH | capIn | capOut | capFrames | params
  /-- PAL0 .. PAL15. -/
  | pal (i : Fin maxPalette)
  deriving DecidableEq, Repr

/-- One thing the host does (20_memory.md R97). `size` is the number of bytes of the access: the interface carries
only size 4 (20_memory.md R88), and the model names the others so that it can refuse them. -/
inductive HostEvent where
  /-- A host read at a byte address. -/
  | read (addr : Word) (size : Nat)
  /-- A host write of `value` at a byte address. -/
  | write (addr : Word) (size : Nat) (value : Word)
  /-- The hardware reset input is asserted (70_reset_and_hazards.md R320). -/
  | reset
  deriving DecidableEq, Repr

/-- What a script line may name where it needs a register: a register name or a numeric byte address
(30_encoding.md R126). -/
inductive RegRef where
  | named (r : Reg)
  | addr (a : Word)
  deriving DecidableEq, Repr

/-- The lines of a host script (30_encoding.md R125), its pseudo-instructions (R127 to R129) and the test
directives (R130). -/
inductive ScriptLine where
  /-- `WR reg, value`. -/
  | wr (r : RegRef) (v : Word)
  /-- `RD reg`. -/
  | rd (r : RegRef)
  /-- `WRIN i, value`. -/
  | wrin (i : Nat) (v : Word)
  /-- `RDOUT j`. -/
  | rdout (j : Nat)
  /-- A mnemonic of R112. -/
  | command (i : Instr)
  /-- `CMDW value`, a raw command word. -/
  | cmdw (v : Word)
  /-- `RESET`. -/
  | reset
  /-- `; text`. -/
  | comment (text : String)
  /-- `RUN mnemonic, a0[, a1]` (R127). -/
  | run (i : Instr) (a0 : Word) (a1 : Option Word)
  /-- `LOADIN v0, ..., vk` (R128). -/
  | loadin (vs : List Word)
  /-- `LOADIN v x n` (R128). -/
  | loadinTimes (v : Word) (n : Nat)
  /-- `SETPAL c0, ..., ck` (R129). -/
  | setpal (cs : List Word)
  /-- `EXPECT reg, value` (R130). -/
  | expect (r : RegRef) (v : Word)
  /-- `EXPECTOUT bytes` (R130). -/
  | expectOut (bs : List Byte)
  deriving DecidableEq, Repr

/-- The accesses the bus carries: naturally aligned and 32 bits wide (20_memory.md R88). -/
def accessOk (addr : Word) (size : Nat) : Bool :=
  size == 4 && addr.toNat % 4 == 0

end Sys2Proof.Machine
end

