-- ==== Sys2Proof/Config.lean ====
section
/-! DEFINITION. What a device fixes (the six parameters of 00_scope.md R8) and the free values: the bits the spec
calls UNSPECIFIED. A free value is a constant without a body, so no proof can know what it is. -/

namespace Sys2Proof

/-- The parameter DICT_KEY (00_scope.md R8, 41_lzw.md R205). -/
inductive DictKey where
  /-- HASH32: a dictionary key is the 32-bit hash of the symbol sequence. -/
  | hash32
  /-- EXACT: a dictionary key is the symbol sequence itself. -/
  | exactSeq
  deriving DecidableEq, Repr

/-- The six parameters of a device (00_scope.md R8). They are "arguments of the model" (10_state.md R30): every
statement about all states is a statement about all devices. -/
structure Params where
  /-- IN_WORDS: size of IN in 32-bit words. -/
  inWords : Nat
  /-- OUT_BYTES: size of OUT in bytes. -/
  outBytes : Nat
  /-- MAX_FRAMES: number of frames the frame store holds. -/
  maxFrames : Nat
  /-- DICT_KEY. -/
  dictKey : DictKey
  /-- LZW_FINAL_GROWTH. -/
  finalGrowth : Bool
  /-- SUBBLOCK_TERM_ALWAYS. -/
  termAlways : Bool
  deriving DecidableEq, Repr

/-- The device that `State.reset` describes. The sizes are OPEN in 00_scope.md R8; these are the ones the vectors of
95_test_vectors.md are written for. The three options have R8's defaults.
DESIGN CHOICE (unsafe for a statement that rests on the sizes; log entry 3). -/
def Config.device : Params where
  inWords := 64
  outBytes := 4096
  maxFrames := 8
  dictKey := .hash32
  finalGrowth := false
  termAlways := false

/-- Free value: what IN word `i` holds when nothing has written it since the reset of draw number `draw`
(20_memory.md R82 "returns an arbitrary 32-bit value"). DESIGN CHOICE (safe; log entry 5). -/
opaque Config.freeIn (draw i : Nat) : Word

/-- Free value: what OUT byte `k` reads as where the spec calls it UNSPECIFIED, in draw number `draw`
(20_memory.md R83; 70_reset_and_hazards.md R320). DESIGN CHOICE (safe; log entry 6). -/
opaque Config.freeOut (draw k : Nat) : Byte

/-- Free value: OUTLEN after an execution fault, in draw number `draw` (60_exceptions.md R293 (b)).
DESIGN CHOICE (safe; log entry 7). -/
opaque Config.freeOutLen (draw : Nat) : Word

end Sys2Proof
end

