-- ==== Sys2Proof/Machine/State.lean ====
section
/-! DEFINITION. The state of the block (10_state.md R30) and of the host at its bus, as plain data, and the state
right after reset (70_reset_and_hazards.md R320). -/

namespace Sys2Proof.Machine

/-- STATUS.STATE (10_state.md R34). -/
inductive Phase where
  | idle | accumulating | finalized | fault
  deriving DecidableEq, Repr

/-- STATUS.FAULT_CODE (60_exceptions.md R281): codes 0 to 10, in the table's order. -/
inductive FaultCode where
  | noFault | illegalCommand | badState | badConfig | dimension | emptyInput
  | symbolRange | inRange | frameIndex | frameStoreFull | outOverflow
  deriving DecidableEq, Repr

/-- A legal palette size P (10_state.md R42, 00_scope.md R10). -/
inductive PaletteSize where
  | four | eight | sixteen
  deriving DecidableEq, Repr

/-- A memory: index and value pairs, indices strictly rising, only what has been written. An index that is not
listed holds no value of the model's; what it reads as is a free value (`Config.freeIn`, `Config.freeOut`), so no
listed entry can equal it. With `α = Byte` this is a list of `Host.Cell`. -/
abbrev Memory (α : Type) := List (Nat × α)

/-- The canonical form of a memory: indices strictly rising. -/
abbrev Memory.wf {α : Type} (m : Memory α) : Prop := (m.map Prod.fst).Pairwise (· < ·)

/-- The OUT buffer and OUTLEN (10_state.md R56, R44). -/
structure OutBuf where
  /-- OUT: the bytes written, by index. -/
  cells : List Host.Cell
  /-- OUTLEN. -/
  len : Word
  /-- The model's own: draw number of the free values of the UNSPECIFIED bytes (log entry 6). -/
  epoch : Nat
  deriving DecidableEq, Repr

/-- The latched session state (10_state.md R54). -/
structure Session where
  /-- L_W. -/
  width : BitVec 16
  /-- L_H. -/
  height : BitVec 16
  /-- L_S. -/
  scale : BitVec 16
  /-- L_P. -/
  psize : PaletteSize
  /-- L_Q. -/
  quantum : BitVec 16
  /-- L_PAL[0..L_P-1]; LOOKUP is computed from it. -/
  palette : List Word
  deriving DecidableEq, Repr

/-- The block's state (10_state.md R30), its device parameters, and the host's side of the bus. -/
structure State where
  /-- The device parameters (00_scope.md R8). No step changes them (log entry 3). -/
  dev : Params
  /-- STATUS.STATE. -/
  phase : Phase
  /-- STATUS.RECT_EMPTY. -/
  rectEmpty : Bool
  /-- STATUS.FAULT_CODE. -/
  faultCode : FaultCode
  arg0 : Word
  arg1 : Word
  width : BitVec 16
  height : BitVec 16
  scale : BitVec 16
  psize : BitVec 5
  quantum : BitVec 16
  hash : Word
  rectXY : Word
  rectWH : Word
  palette : Vector Word maxPalette
  session : Session
  /-- The frame store FR[0 .. NFRAMES-1] (10_state.md R55); NFRAMES is its length (log entry 4). -/
  frames : List (List Nat)
  out : OutBuf
  /-- IN (10_state.md R57): words by index. -/
  inMem : Memory Word
  /-- The model's own: draw number of the free values of IN words never written since reset (log entry 5). -/
  inEpoch : Nat
  /-- The model's own: what the host will still send, in order (30_encoding.md R125; log entry 1). -/
  script : List HostEvent
  /-- The model's own: what the host's reads have returned, oldest first (20_memory.md R97; log entry 11). -/
  readData : List Word
  deriving DecidableEq, Repr

/-- Reasons to stop with a machine fault: none. Every fault of the block is a state it goes on from (60_exceptions.md
R280, R292, R294) and "a host bus access never faults" (R280), so no step of the model ends here.
Safe: nothing is left out (log entry 9). -/
inductive Fault where
  deriving DecidableEq, Repr

/-- Reasons why a step has no meaning. -/
inductive Refusal where
  /-- Raised by `exec` for a command that has no meaning yet. Safe: the run stops. No arm raises it. -/
  | notModelled (mnemonic : String)
  /-- Raised by `hostEvent` for a bus access that is not naturally aligned and 32 bits wide: "The model refuses it
  (no meaning, no step)" (20_memory.md R88). Safe: the spec itself gives it no step (log entry 10). -/
  | accessOutsideInterface (addr : Word) (size : Nat)
  deriving DecidableEq, Repr

/-- The session state after reset. 70_reset_and_hazards.md R320 calls it UNSPECIFIED, and no command reads it in
IDLE (10_state.md R54). DESIGN CHOICE (unsafe for a statement that rests on it; log entry 8). -/
def Session.afterReset : Session where
  width := 0
  height := 0
  scale := 0
  psize := .sixteen
  quantum := 0
  palette := []

/-- The block right after reset (70_reset_and_hazards.md R320), for a device `d`, a host that has still to send
`script` and has been given `readData`, and fresh draws of the UNSPECIFIED memories. -/
def State.resetWith (d : Params) (script : List HostEvent) (readData : List Word) (inEpoch outEpoch : Nat) :
    State where
  dev := d
  phase := .idle
  rectEmpty := false
  faultCode := .noFault
  arg0 := 0
  arg1 := 0
  width := 0
  height := 0
  scale := 1
  psize := 16
  quantum := 0
  hash := BitVec.ofNat 32 hashSeed
  rectXY := 0
  rectWH := 0
  palette := Vector.replicate maxPalette 0
  session := Session.afterReset
  frames := []
  out := { cells := [], len := 0, epoch := outEpoch }
  inMem := []
  inEpoch := inEpoch
  script := script
  readData := readData

/-- Power-on (70_reset_and_hazards.md R321): the reset state of the device `Config.device`, with no host script
placed. The two draw numbers are 0: DESIGN CHOICE (safe: the free values they select are unknown; log entry 5). -/
def State.reset : State := State.resetWith Config.device [] [] 0 0

end Sys2Proof.Machine
end

