-- ==== Sys2Proof/Machine/Flags.lean ====
section
/-! DEFINITION. The flags of the block: the fields of STATUS and the packed registers RECT_XY, RECT_WH and PARAMS
(10_state.md R33 to R36, R47, R48, R51). -/

namespace Sys2Proof.Machine

/-- STATUS.STATE (10_state.md R34). -/
def Phase.code : Phase → BitVec 2
  | .idle => 0
  | .accumulating => 1
  | .finalized => 2
  | .fault => 3

/-- STATUS.FAULT_CODE (60_exceptions.md R281). -/
def FaultCode.code : FaultCode → BitVec 8
  | .noFault => 0
  | .illegalCommand => 1
  | .badState => 2
  | .badConfig => 3
  | .dimension => 4
  | .emptyInput => 5
  | .symbolRange => 6
  | .inRange => 7
  | .frameIndex => 8
  | .frameStoreFull => 9
  | .outOverflow => 10

/-- The STATUS register (10_state.md R33): FAULT_CODE in [15:8], RECT_EMPTY in [2], STATE in [1:0], the rest 0. -/
def State.status (s : State) : Word :=
  s.faultCode.code.setWidth 32 <<< 8 ||| (BitVec.ofBool s.rectEmpty).setWidth 32 <<< 2 ||| s.phase.code.setWidth 32

/-- `(hi << 16) | lo`: how RECT_XY and RECT_WH hold two 16-bit numbers (40_container.md R180). -/
def packHalves (hi lo : Nat) : Word := BitVec.ofNat 32 hi <<< 16 ||| BitVec.ofNat 32 lo

/-- The PARAMS register (10_state.md R51): DICT_KEY in [0], LZW_FINAL_GROWTH in [1], SUBBLOCK_TERM_ALWAYS in [2]. -/
def paramsWord (d : Params) : Word :=
  (BitVec.ofBool (d.dictKey == .exactSeq)).setWidth 32
    ||| (BitVec.ofBool d.finalGrowth).setWidth 32 <<< 1
    ||| (BitVec.ofBool d.termAlways).setWidth 32 <<< 2

/-- OUTLEN (10_state.md R44). -/
abbrev State.outlen (s : State) : Word := s.out.len

/-- NFRAMES (10_state.md R45) as the number it is. -/
abbrev State.nframes (s : State) : Nat := s.frames.length

end Sys2Proof.Machine
end

