-- ==== Sys2Proof/Machine/Ops.lean ====
section
/-! DEFINITION. The operations every command is written over: the two memories, OutAppend (00_scope.md R15), the
named updates of State, taking a fault (60_exceptions.md R292, R293), leaving it by reset (R294), and the permission
check of 30_encoding.md R110 and R118. -/

namespace Sys2Proof.Machine

/-! ## Memories -/

/-- The value stored at an index, if any has been written. -/
def Memory.read {α : Type} : Memory α → Nat → Option α
  | [], _ => none
  | (j, v) :: m, k => if j = k then some v else Memory.read m k

/-- Store a value at an index, keeping the canonical form. -/
def Memory.write {α : Type} : Memory α → Nat → α → Memory α
  | [], k, v => [(k, v)]
  | (j, u) :: m, k, v =>
    if k < j then (k, v) :: (j, u) :: m
    else if k = j then (k, v) :: m
    else (j, u) :: Memory.write m k v

/-- IN[i] (20_memory.md R82): the word last written there since reset, or a free value. -/
def State.inWord (s : State) (i : Nat) : Word :=
  (Memory.read s.inMem i).getD (Config.freeIn s.inEpoch i)

/-- OUT[k] (20_memory.md R83): a byte below OUTLEN as stored, a free value from OUTLEN up to OUT_BYTES, 0 from
OUT_BYTES on. -/
def State.outByte (s : State) (k : Nat) : Byte :=
  if s.dev.outBytes ≤ k then 0
  else if k < s.out.len.toNat then (Memory.read s.out.cells k).getD (Config.freeOut s.out.epoch k)
  else Config.freeOut s.out.epoch k

/-- The valid output OUT[0..OUTLEN) (20_memory.md R83), the result of a run (70_reset_and_hazards.md R340). -/
def State.outBytes (s : State) : List Byte := (List.range s.out.len.toNat).map s.outByte

/-! ## Bytes of a number (00_scope.md R13) -/

def lo8 (v : Nat) : Byte := BitVec.ofNat 8 (v % 256)

def hi8 (v : Nat) : Byte := BitVec.ofNat 8 (v / 256 % 256)

/-- Two bytes, low byte first; a value of 2^16 or more keeps its low 16 bits. -/
def le16 (v : Nat) : List Byte := [lo8 v, hi8 v]

/-! ## The OUT buffer -/

/-- OUTLEN <- 0; every byte becomes UNSPECIFIED (10_state.md R56), so the free values are drawn anew. -/
def OutBuf.clear (b : OutBuf) : OutBuf := { cells := [], len := 0, epoch := b.epoch + 1 }

/-- The bytes at or above OUTLEN become UNSPECIFIED anew (10_state.md R56). -/
def OutBuf.redraw (b : OutBuf) : OutBuf := { b with epoch := b.epoch + 1 }

/-- OUT and OUTLEN UNSPECIFIED after an execution fault (60_exceptions.md R293 (b)). -/
def OutBuf.unspecified (b : OutBuf) : OutBuf :=
  { cells := [], len := Config.freeOutLen (b.epoch + 1), epoch := b.epoch + 1 }

/-- `OutAppend(x)` (00_scope.md R15) on a device with `cap` bytes of OUT. -/
def outAppend (cap : Nat) (b : OutBuf) (x : Byte) : Except FaultCode OutBuf :=
  if b.len.toNat = cap then .error .outOverflow
  else .ok { b with cells := Memory.write b.cells b.len.toNat x, len := b.len + 1 }

/-- `OutAppendAll(xs)` (00_scope.md R15). -/
def outAppendAll (cap : Nat) : OutBuf → List Byte → Except FaultCode OutBuf
  | b, [] => .ok b
  | b, x :: xs =>
    match outAppend cap b x with
    | .error f => .error f
    | .ok b' => outAppendAll cap b' xs

/-! ## Named updates of State -/

def State.setPhase (s : State) (p : Phase) : State := { s with phase := p }

def State.setOut (s : State) (b : OutBuf) : State := { s with out := b }

def State.setHash (s : State) (h : Word) : State := { s with hash := h }

/-- The results of DIFF_RECT (40_container.md R180). -/
def State.setRect (s : State) (empty : Bool) (xy wh : Word) : State :=
  { s with rectEmpty := empty, rectXY := xy, rectWH := wh }

/-- What CONFIGURE latches, with the frame store emptied (40_container.md R141). -/
def State.setSession (s : State) (c : Session) : State := { s with session := c, frames := [] }

/-- One more frame in the store (40_container.md R150). -/
def State.pushFrame (s : State) (f : List Nat) : State := { s with frames := s.frames ++ [f] }

def State.setIn (s : State) (i : Nat) (v : Word) : State := { s with inMem := Memory.write s.inMem i v }

def State.setScript (s : State) (es : List HostEvent) : State := { s with script := es }

/-- A host read has returned `v` (20_memory.md R97). -/
def State.pushRead (s : State) (v : Word) : State := { s with readData := s.readData ++ [v] }

/-! ## Taking a fault and leaving it -/

/-- Fault entry (60_exceptions.md R292): STATE <- FAULT, FAULT_CODE <- code; nothing else. -/
def raiseFault (c : FaultCode) (s : State) : State := { s with phase := .fault, faultCode := c }

/-- Fault entry from a command that is running (60_exceptions.md R293 (b)): OUT and OUTLEN are UNSPECIFIED too. -/
def raiseRunningFault (c : FaultCode) (s : State) : State := raiseFault c (s.setOut s.out.unspecified)

/-- Reset (70_reset_and_hazards.md R320), the only way out of FAULT (60_exceptions.md R294). The device, the host's
script and what the host has read are not the block's; the UNSPECIFIED memories are drawn anew. -/
def doReset (s : State) : State :=
  State.resetWith s.dev s.script s.readData (s.inEpoch + 1) (s.out.epoch + 1)

/-! ## The permission check -/

/-- The states in which each command may run (30_encoding.md R118). -/
def allowed : Instr → Phase → Bool
  | .softReset, _ => true
  | _, .fault => false
  | .nop, _ => true
  | .configure, .idle => true
  | .configure, _ => false
  | .addFrame, .accumulating => true
  | .addFrame, _ => false
  | .finish, .accumulating => true
  | .finish, _ => false
  | .diffRect, .accumulating => true
  | .diffRect, .finalized => true
  | .diffRect, _ => false
  | .lzwEncode, .idle => true
  | .lzwEncode, _ => false
  | .hashInit, _ => true
  | .hashExtend, _ => true
  | .hashSeq, _ => true

/-- What 30_encoding.md R110 does with a legal command: in FAULT no effect unless it is SOFT_RESET; in a state that
does not allow it, BAD_STATE; otherwise its rule, given as `body`. -/
def issue (i : Instr) (s : State) (body : State) : Host.Outcome State Fault Refusal :=
  if allowed i s.phase then .next body
  else if s.phase = .fault then .next s
  else .next (raiseFault .badState s)

end Sys2Proof.Machine
end

