-- ==== Sys2Proof/Machine/Operands.lean ====
section
/-! DEFINITION. Where a command finds its operands (30_encoding.md R113, R114): ARG0 and ARG1 as numbers, the words
of IN, PSIZE, the palette. And the register file as the host sees it (10_state.md R31 to R52). -/

namespace Sys2Proof.Machine

/-! ## Operands of commands -/

/-- ARG0 as an unsigned number (30_encoding.md R113). -/
abbrev State.arg0Nat (s : State) : Nat := s.arg0.toNat

/-- ARG1 as an unsigned number (30_encoding.md R113). -/
abbrev State.arg1Nat (s : State) : Nat := s.arg1.toNat

/-- IN[0], ..., IN[n-1] (20_memory.md R90). -/
def State.inWords (s : State) (n : Nat) : List Word := (List.range n).map s.inWord

/-- The number P of colours. -/
def PaletteSize.toNat : PaletteSize → Nat
  | .four => 4
  | .eight => 8
  | .sixteen => 16

/-- The legal values of PSIZE are 4, 8 and 16 (10_state.md R42). -/
def PaletteSize.ofReg (p : BitVec 5) : Option PaletteSize :=
  if p = 4 then some .four else if p = 8 then some .eight else if p = 16 then some .sixteen else none

/-- PALETTE[0], ..., PALETTE[n-1]. -/
def State.paletteWords (s : State) (n : Nat) : List Word := s.palette.toList.take n

/-- The pixel count W*H of a frame of the session. -/
def Session.pixels (c : Session) : Nat := c.width.toNat * c.height.toNat

/-! ## The register map (10_state.md R31) -/

def Reg.offset : Reg → Nat
  | .id => 0x000
  | .status => 0x004
  | .cmd => 0x008
  | .arg0 => 0x00C
  | .arg1 => 0x010
  | .width => 0x014
  | .height => 0x018
  | .scale => 0x01C
  | .psize => 0x020
  | .quantum => 0x024
  | .outlen => 0x028
  | .nframes => 0x02C
  | .hash => 0x030
  | .rectXY => 0x034
  | .rectWH => 0x038
  | .capIn => 0x03C
  | .capOut => 0x040
  | .capFrames => 0x044
  | .params => 0x048
  | .pal i => 0x080 + 4 * i.val

/-- The address of a register: its offset from 0x0000_0000 (30_encoding.md R126). -/
def Reg.addr (r : Reg) : Word := BitVec.ofNat 32 r.offset

/-- The nineteen registers that are not palette entries, in the order of 10_state.md R31. -/
def namedRegs : List Reg :=
  [.id, .status, .cmd, .arg0, .arg1, .width, .height, .scale, .psize, .quantum,
   .outlen, .nframes, .hash, .rectXY, .rectWH, .capIn, .capOut, .capFrames, .params]

/-- The register at an offset of the register block; none at a reserved offset (10_state.md R52). -/
def Reg.ofOffset (o : Nat) : Option Reg :=
  if 0x080 ≤ o ∧ o < 0x0C0 ∧ o % 4 = 0 then some (.pal (Fin.ofNat maxPalette ((o - 0x080) / 4)))
  else namedRegs.find? (fun r => r.offset == o)

/-- A host read of a register (10_state.md R31 to R51). -/
def readReg (s : State) : Reg → Word
  | .id => idWord
  | .status => s.status
  | .cmd => 0
  | .arg0 => s.arg0
  | .arg1 => s.arg1
  | .width => s.width.setWidth 32
  | .height => s.height.setWidth 32
  | .scale => s.scale.setWidth 32
  | .psize => s.psize.setWidth 32
  | .quantum => s.quantum.setWidth 32
  | .outlen => s.outlen
  | .nframes => BitVec.ofNat 32 s.nframes
  | .hash => s.hash
  | .rectXY => s.rectXY
  | .rectWH => s.rectWH
  | .capIn => BitVec.ofNat 32 s.dev.inWords
  | .capOut => BitVec.ofNat 32 s.dev.outBytes
  | .capFrames => BitVec.ofNat 32 s.dev.maxFrames
  | .params => paramsWord s.dev
  | .pal i => s.palette[i.val]

/-- A host write of a register other than CMD (20_memory.md R87): a read-write register takes its used bits, a
read-only one ignores the write. CMD is `runCommand`'s. -/
def writeReg (s : State) (v : Word) : Reg → State
  | .arg0 => { s with arg0 := v }
  | .arg1 => { s with arg1 := v }
  | .width => { s with width := v.setWidth 16 }
  | .height => { s with height := v.setWidth 16 }
  | .scale => { s with scale := v.setWidth 16 }
  | .psize => { s with psize := v.setWidth 5 }
  | .quantum => { s with quantum := v.setWidth 16 }
  | .hash => s.setHash v
  | .pal i => { s with palette := s.palette.set i.val v }
  | .id | .status | .cmd | .outlen | .nframes | .rectXY | .rectWH => s
  | .capIn | .capOut | .capFrames | .params => s

end Sys2Proof.Machine
end

