-- ==== Sys2Proof/Machine/Hash.lean ====
section
/-! DEFINITION. The rolling hash (42_hasher.md R250 to R255) and the three hash commands (R260 to R262). -/

namespace Sys2Proof.Machine

/-- The hash of one item is the item itself, mod 2^32 (42_hasher.md R251). -/
def hashItem (x : Nat) : Word := BitVec.ofNat 32 x

/-- `extend(h, x) = (h * HASH_MULT + hash(x)) mod 2^32` (42_hasher.md R252). -/
def extend (h : Word) (x : Nat) : Word := h * BitVec.ofNat 32 hashMult + hashItem x

/-- `hash(seed, items)`: `extend` folded over the items from first to last (42_hasher.md R253). -/
def hashFrom (seed : Word) (items : List Nat) : Word := items.foldl extend seed

/-- The value HASH_INIT sets (42_hasher.md R260). -/
def hashInitial : Word := BitVec.ofNat 32 hashSeed

/-- HASH_INIT (42_hasher.md R260). -/
def execHashInit (s : State) : Host.Outcome State Fault Refusal := issue .hashInit s (s.setHash hashInitial)

/-- HASH_EXTEND (42_hasher.md R261). -/
def execHashExtend (s : State) : Host.Outcome State Fault Refusal :=
  issue .hashExtend s (s.setHash (extend s.hash s.arg0Nat))

/-- The pseudocode of HASH_SEQ (42_hasher.md R262). -/
def hashSeqBody (s : State) : State :=
  if s.dev.inWords < s.arg0Nat then raiseFault .inRange s
  else s.setHash (hashFrom s.hash ((s.inWords s.arg0Nat).map BitVec.toNat))

/-- HASH_SEQ (42_hasher.md R262). -/
def execHashSeq (s : State) : Host.Outcome State Fault Refusal := issue .hashSeq s (hashSeqBody s)

end Sys2Proof.Machine
end

