-- ==== Sys2Proof/Machine/Lzw.lean ====
section
/-! DEFINITION. The LZW compressor (41_lzw.md): code generation, bit packing, sub-blocks, the stream, and the command
LZW_ENCODE. The working state of 10_state.md R58 to R60 lives in the values of this file: it exists only while one
command runs (10_state.md R62). -/

namespace Sys2Proof.Machine

/-! ## Constants of one run (41_lzw.md R201 to R203) -/

/-- initialCodeSize = max(2, ceil(log2 P)) (41_lzw.md R201; P is a power of two, so log2 P is exact, 00_scope.md R11). -/
def initialCodeSize (p : PaletteSize) : Nat := max 2 (Nat.log2 p.toNat)

/-- CLR (41_lzw.md R202). -/
def clearCode (p : PaletteSize) : Nat := p.toNat

/-- EOI (41_lzw.md R202). -/
def eoiCode (p : PaletteSize) : Nat := p.toNat + 1

/-- The starting code width (41_lzw.md R203). -/
def startWidth (p : PaletteSize) : Nat := initialCodeSize p + 1

/-! ## Keys and the dictionary (41_lzw.md R204 to R206) -/

/-- A dictionary key (10_state.md R59): a hash under HASH32, the sequence itself under EXACT. -/
inductive Key where
  | hash (h : Word)
  | sequence (symbols : List Nat)
  deriving DecidableEq, Repr

/-- The dictionary: a finite map from keys to codes, newest entry first (10_state.md R58). -/
abbrev Dict := List (Key × Nat)

/-- `key1(x)` (41_lzw.md R205). -/
def key1 : DictKey → Nat → Key
  | .hash32, x => .hash (extend hashInitial x)
  | .exactSeq, x => .sequence [x]

/-- `keyext(k, x)` (41_lzw.md R205). -/
def keyext : Key → Nat → Key
  | .hash h, x => .hash (extend h x)
  | .sequence q, x => .sequence (q ++ [x])

/-- The code a key maps to, if it is in the dictionary. -/
def dictFind : Dict → Key → Option Nat
  | [], _ => none
  | (k, c) :: d, q => if k = q then some c else dictFind d q

/-- `SEED(P)`: one single-symbol entry per palette index; the two reserved codes hold no key (41_lzw.md R204). -/
def seedDict (m : DictKey) (p : PaletteSize) : Dict := (List.range p.toNat).map fun i => (key1 m i, i)

/-- The first free code after seeding, P + 2 (41_lzw.md R202, R204). -/
def seedSize (p : PaletteSize) : Nat := p.toNat + 2

/-- `codeOf(k)` (41_lzw.md R206). -/
def codeOf (d : Dict) (k : Key) : Except FaultCode Nat :=
  match dictFind d k with
  | some c => .ok c
  | none => .error .symbolRange

/-! ## Code generation (41_lzw.md R207 to R215) -/

/-- An emitted code (10_state.md R58). -/
structure Code where
  value : Nat
  width : Nat
  deriving DecidableEq, Repr

/-- The compressor's working state (10_state.md R58). -/
structure Lzw where
  /-- `w`: current code width. -/
  w : Nat
  /-- `size`: tableSize, the next free code. -/
  size : Nat
  dict : Dict
  /-- `cur`: the key of the current matched sequence. -/
  cur : Key
  /-- The codes emitted, oldest first. -/
  codes : List Code
  deriving DecidableEq, Repr

/-- The state in which the loop of 41_lzw.md R207 starts: seeded, clearCode emitted, matching the first symbol. -/
def Lzw.start (m : DictKey) (p : PaletteSize) (s0 : Nat) : Lzw where
  w := startWidth p
  size := seedSize p
  dict := seedDict m p
  cur := key1 m s0
  codes := [⟨clearCode p, startWidth p⟩]

/-- Width growth (41_lzw.md R210). -/
def grownWidth (w size : Nat) : Nat := if 2 ^ w < size then w + 1 else w

/-- A miss on symbol `x`, whose extended key is `ext` (41_lzw.md R208 to R211): register, emit the previous code,
grow, reset the dictionary if it is full; then match from `x`. -/
def Lzw.miss (m : DictKey) (p : PaletteSize) (z : Lzw) (x : Nat) (ext : Key) : Except FaultCode Lzw :=
  match codeOf ((ext, z.size) :: z.dict) z.cur with
  | .error f => .error f
  | .ok c =>
    let w := grownWidth z.w (z.size + 1)
    if z.size + 1 = maxTable then
      .ok { w := startWidth p, size := seedSize p, dict := seedDict m p, cur := key1 m x,
            codes := z.codes ++ [⟨c, z.w⟩, ⟨clearCode p, w⟩] }
    else
      .ok { w := w, size := z.size + 1, dict := (ext, z.size) :: z.dict, cur := key1 m x,
            codes := z.codes ++ [⟨c, z.w⟩] }

/-- One iteration of the loop of 41_lzw.md R207. -/
def Lzw.feed (m : DictKey) (p : PaletteSize) (z : Lzw) (x : Nat) : Except FaultCode Lzw :=
  match dictFind z.dict (keyext z.cur x) with
  | some _ => .ok { z with cur := keyext z.cur x }
  | none => z.miss m p x (keyext z.cur x)

/-- The loop of 41_lzw.md R207. -/
def Lzw.feedAll (m : DictKey) (p : PaletteSize) : Lzw → List Nat → Except FaultCode Lzw
  | z, [] => .ok z
  | z, x :: xs =>
    match z.feed m p x with
    | .error f => .error f
    | .ok z' => Lzw.feedAll m p z' xs

/-- The width of EOI: the current width, or one more under LZW_FINAL_GROWTH when 2^w ≤ size (41_lzw.md R214, R215). -/
def eoiWidth (growth : Bool) (z : Lzw) : Nat := if growth && 2 ^ z.w ≤ z.size then z.w + 1 else z.w

/-- End of input (41_lzw.md R213, R214). -/
def Lzw.close (growth : Bool) (p : PaletteSize) (z : Lzw) : Except FaultCode (List Code) :=
  match codeOf z.dict z.cur with
  | .error f => .error f
  | .ok c => .ok (z.codes ++ [⟨c, z.w⟩, ⟨eoiCode p, eoiWidth growth z⟩])

/-- `LZW_CODES(sym, P)` (41_lzw.md R207). The precondition is that `sym` is not empty (R200); an empty one is the
compressor precondition violation EMPTY_INPUT (93_implementation_defined.md U1). DEDUCED (safe; log entry 15). -/
def lzwCodes (d : Params) (p : PaletteSize) : List Nat → Except FaultCode (List Code)
  | [] => .error .emptyInput
  | s0 :: rest =>
    match (Lzw.start d.dictKey p s0).feedAll d.dictKey p rest with
    | .error f => .error f
    | .ok z => z.close d.finalGrowth p

/-! ## Bit packing (41_lzw.md R212, R216) -/

/-- The bit packer (10_state.md R60). -/
structure Packer where
  /-- `cb`: the current byte. -/
  cb : Byte
  /-- `off`: the current bit offset, 0 to 7. -/
  off : Nat
  /-- `data`: the packed bytes. -/
  data : List Byte
  deriving DecidableEq, Repr

def Packer.start : Packer := { cb := 0, off := 0, data := [] }

/-- One bit at the current position; a full byte is flushed (41_lzw.md R212). -/
def Packer.putBit (k : Packer) (b : Bool) : Packer :=
  let cb := k.cb ||| (BitVec.ofBool b).setWidth 8 <<< k.off
  if k.off + 1 = 8 then { cb := 0, off := 0, data := k.data ++ [cb] }
  else { k with cb := cb, off := k.off + 1 }

/-- The bits of one code, low bit first (41_lzw.md R212). -/
def Packer.putCode (k : Packer) (c : Code) : Packer :=
  (List.range c.width).foldl (fun k j => k.putBit (c.value.testBit j)) k

/-- The final flush (41_lzw.md R216). -/
def Packer.flush (k : Packer) : List Byte := if 0 < k.off then k.data ++ [k.cb] else k.data

/-- `PACK(codes)` (41_lzw.md R212). -/
def pack (codes : List Code) : List Byte := (codes.foldl Packer.putCode Packer.start).flush

/-! ## Sub-blocks and the stream (41_lzw.md R218 to R220) -/

/-- At most `n` chunks of up to 255 bytes, each with its length byte (41_lzw.md R218). -/
def chunks : Nat → List Byte → List Byte
  | 0, _ => []
  | n + 1, data =>
    if data = [] then []
    else BitVec.ofNat 8 (data.take blockMax).length :: data.take blockMax ++ chunks n (data.drop blockMax)

/-- The zero-length block, unless the data ends on a block boundary and SUBBLOCK_TERM_ALWAYS is false
(41_lzw.md R219). -/
def terminator (always : Bool) (m : Nat) : List Byte := if m % blockMax = 0 ∧ always = false then [] else [0x00]

/-- `SUBBLOCKS(data)` (41_lzw.md R218, R219). As many chunks as there are bytes are always enough. -/
def subBlocks (always : Bool) (data : List Byte) : List Byte :=
  chunks data.length data ++ terminator always data.length

/-- `LZW_STREAM(sym, P)` (41_lzw.md R220). -/
def lzwStream (d : Params) (p : PaletteSize) (sym : List Nat) : Except FaultCode (List Byte) :=
  match lzwCodes d p sym with
  | .error f => .error f
  | .ok codes => .ok (BitVec.ofNat 8 (initialCodeSize p) :: subBlocks d.termAlways (pack codes))

/-! ## The command (41_lzw.md R230) -/

/-- The symbols of LZW_ENCODE: each a whole IN word (41_lzw.md R230). -/
def State.symbols (s : State) : List Nat := (s.inWords s.arg0Nat).map BitVec.toNat

/-- The pseudocode of LZW_ENCODE after its operand checks (41_lzw.md R230). -/
def lzwEncodeRun (s : State) (p : PaletteSize) : State :=
  match lzwStream s.dev p s.symbols with
  | .error f => raiseRunningFault f s
  | .ok bytes =>
    match outAppendAll s.dev.outBytes s.out.clear bytes with
    | .error f => raiseRunningFault f s
    | .ok b => s.setOut b

/-- The pseudocode of LZW_ENCODE (41_lzw.md R230): BAD_CONFIG, then EMPTY_INPUT, then IN_RANGE, then the run. -/
def lzwEncodeBody (s : State) : State :=
  match PaletteSize.ofReg s.psize with
  | none => raiseFault .badConfig s
  | some p =>
    if s.arg0Nat = 0 then raiseFault .emptyInput s
    else if s.dev.inWords < s.arg0Nat then raiseFault .inRange s
    else lzwEncodeRun s p

/-- LZW_ENCODE (41_lzw.md R230). -/
def execLzwEncode (s : State) : Host.Outcome State Fault Refusal := issue .lzwEncode s (lzwEncodeBody s)

end Sys2Proof.Machine
end

