-- ==== Sys2Proof/Machine/Container.lean ====
section
/-! DEFINITION. The frame container, the difference detector and the rectangle extractor (40_container.md): CONFIGURE,
ADD_FRAME, FINISH and DIFF_RECT. -/

namespace Sys2Proof.Machine

/-! ## Byte formats (40_container.md R140) -/

/-- R(c), G(c), B(c) of a colour word (00_scope.md R16). -/
def rgb (c : Word) : List Byte := [c.extractLsb' 0 8, c.extractLsb' 8 8, c.extractLsb' 16 8]

/-- SIG = "GIF89a". -/
def sigBytes : List Byte := [0x47, 0x49, 0x46, 0x38, 0x39, 0x61]

/-- The packed byte of the LSD: 0x80 | 0x10 | 0x08 | (log2(P) - 1). -/
def lsdPacked (p : PaletteSize) : Byte := BitVec.ofNat 8 (0x80 ||| 0x10 ||| 0x08 ||| (Nat.log2 p.toNat - 1))

/-- LSD. -/
def lsdBytes (c : Session) : List Byte :=
  le16 (c.width.toNat * c.scale.toNat) ++ le16 (c.height.toNat * c.scale.toNat)
    ++ [lsdPacked c.psize, 0x00, 0x00]

/-- GCT. -/
def gctBytes (c : Session) : List Byte := c.palette.flatMap rgb

/-- APPEXT: 0x21 0xFF 0x0B "NETSCAPE2.0" 0x03 0x01 0x00 0x00 0x00. -/
def appExtBytes : List Byte :=
  [0x21, 0xFF, 0x0B] ++ [0x4E, 0x45, 0x54, 0x53, 0x43, 0x41, 0x50, 0x45, 0x32, 0x2E, 0x30]
    ++ [0x03, 0x01, 0x00, 0x00, 0x00]

/-- What CONFIGURE writes: SIG ++ LSD ++ GCT ++ APPEXT. -/
def headerBytes (c : Session) : List Byte := sigBytes ++ lsdBytes c ++ gctBytes c ++ appExtBytes

/-- GCE(d). -/
def gceBytes (delay : Nat) : List Byte := [0x21, 0xF9, 0x04, 0x04] ++ le16 delay ++ [0x00, 0x00]

/-- IMGDESC(x, y, w, h). -/
def imgDescBytes (x y w h : Nat) : List Byte := [0x2C] ++ le16 x ++ le16 y ++ le16 w ++ le16 h ++ [0x00]

/-! ## CONFIGURE (40_container.md R141) -/

/-- Two of the colours are equal. -/
def hasDuplicate : List Word → Bool
  | [] => false
  | c :: cs => cs.contains c || hasDuplicate cs

/-- What CONFIGURE latches for palette size `p` (40_container.md R141). -/
def State.latched (s : State) (p : PaletteSize) : Session where
  width := s.width
  height := s.height
  scale := s.scale
  psize := p
  quantum := s.quantum
  palette := s.paletteWords p.toNat

/-- The pseudocode of CONFIGURE after its checks: latch, empty the store, start OUT with the header. An OUT_OVERFLOW
comes after the latching (60_exceptions.md R293 (b)). -/
def configureRun (s : State) (p : PaletteSize) : State :=
  let s' := s.setSession (s.latched p)
  match outAppendAll s.dev.outBytes s.out.clear (headerBytes (s.latched p)) with
  | .error f => raiseRunningFault f s'
  | .ok b => (s'.setOut b).setPhase .accumulating

/-- The pseudocode of CONFIGURE (40_container.md R141), its four checks in their order. -/
def configureBody (s : State) : State :=
  match PaletteSize.ofReg s.psize with
  | none => raiseFault .badConfig s
  | some p =>
    if s.width = 0 ∨ s.height = 0 ∨ s.scale = 0 then raiseFault .badConfig s
    else if s.dev.inWords < s.width.toNat * s.height.toNat then raiseFault .badConfig s
    else if hasDuplicate (s.paletteWords p.toNat) then raiseFault .badConfig s
    else configureRun s p

/-- CONFIGURE (40_container.md R141). -/
def execConfigure (s : State) : Host.Outcome State Fault Refusal := issue .configure s (configureBody s)

/-! ## ADD_FRAME (40_container.md R150, R151) -/

/-- The position of a colour in a list of colours, counted from `k`. -/
def colourIndex (c : Word) : List Word → Nat → Option Nat
  | [], _ => none
  | q :: qs, k => if q = c then some k else colourIndex c qs (k + 1)

/-- LOOKUP(c): the index of the palette entry equal to `c` on all 32 bits, or SENTINEL_INDEX (10_state.md R54,
40_container.md R151). -/
def lookup (palette : List Word) (c : Word) : Nat := (colourIndex c palette 0).getD sentinelIndex

/-- The pseudocode of ADD_FRAME (40_container.md R150): DIMENSION, then FRAME_STORE_FULL, then the frame. -/
def addFrameBody (s : State) : State :=
  if s.arg0Nat ≠ s.session.pixels then raiseFault .dimension s
  else if s.nframes = s.dev.maxFrames then raiseFault .frameStoreFull s
  else s.pushFrame ((s.inWords s.arg0Nat).map (lookup s.session.palette))

/-- ADD_FRAME (40_container.md R150). -/
def execAddFrame (s : State) : Host.Outcome State Fault Refusal := issue .addFrame s (addFrameBody s)

/-! ## The difference detector (40_container.md R165) -/

/-- A rectangle in native pixels. -/
structure Rect where
  x : Nat
  y : Nat
  w : Nat
  h : Nat
  deriving DecidableEq, Repr

/-- The index of a frame at column `x`, row `y`: F[y*W + x] (00_scope.md R17). A frame of the store holds W*H indices
(10_state.md R55), so the default is never read in a state a run reaches (log entry 17). -/
def pixelAt (f : List Nat) (w x y : Nat) : Nat := f.getD (y * w + x) 0

/-- D: the pixels (x, y) at which two frames differ, row by row (40_container.md R165). -/
def diffPixels (a b : List Nat) (w h : Nat) : List (Nat × Nat) :=
  (List.range h).flatMap fun y =>
    ((List.range w).filter fun x => pixelAt a w x y != pixelAt b w x y).map fun x => (x, y)

/-- The least of a number and a list. -/
def leastOf (n : Nat) (ns : List Nat) : Nat := ns.foldl min n

/-- The greatest of a number and a list. -/
def greatestOf (n : Nat) (ns : List Nat) : Nat := ns.foldl max n

/-- The minimal rectangle around a set of pixels; none around the empty set. -/
def boundingRect : List (Nat × Nat) → Option Rect
  | [] => none
  | d :: ds =>
    let x0 := leastOf d.1 (ds.map Prod.fst)
    let x1 := greatestOf d.1 (ds.map Prod.fst)
    let y0 := leastOf d.2 (ds.map Prod.snd)
    let y1 := greatestOf d.2 (ds.map Prod.snd)
    some { x := x0, y := y0, w := x1 - x0 + 1, h := y1 - y0 + 1 }

/-- `bbox(A, B, W, H)` (40_container.md R165); none is EMPTY. -/
def bbox (a b : List Nat) (w h : Nat) : Option Rect := boundingRect (diffPixels a b w h)

/-- FR[f] (10_state.md R55). -/
def State.frame (s : State) (f : Nat) : List Nat := s.frames.getD f []

/-! ## The rectangle extractor (40_container.md R162, R167) -/

/-- `extract(F, rect, W, S)`: the indices of the scaled rectangle, row by row (40_container.md R167). -/
def extract (f : List Nat) (r : Rect) (w sc : Nat) : List Nat :=
  (List.range (r.h * sc)).flatMap fun dy =>
    (List.range (r.w * sc)).map fun dx => pixelAt f w ((r.x * sc + dx) / sc) ((r.y * sc + dy) / sc)

/-! ## FINISH (40_container.md R160 to R176) -/

/-- The working state of the finish pass (10_state.md R61). -/
structure FinishPass where
  /-- `last`: the index of the last emitted frame, or none. -/
  last : Option Nat
  /-- `acc`: the duration accumulator. -/
  acc : Nat
  deriving DecidableEq, Repr

/-- The rectangle of frame `f`: the whole frame if none was emitted yet (40_container.md R164), else the difference
from the last emitted frame (R165). -/
def finishRect (s : State) (last : Option Nat) (f : Nat) : Option Rect :=
  match last with
  | none => some { x := 0, y := 0, w := s.session.width.toNat, h := s.session.height.toNat }
  | some e => bbox (s.frame e) (s.frame f) s.session.width.toNat s.session.height.toNat

/-- One emission (40_container.md R168 to R170): the Graphic Control Extension, the Image Descriptor, then the
compressed payload, computed whole before any of its bytes is appended (41_lzw.md R220). -/
def emitFrame (s : State) (acc f : Nat) (r : Rect) (b : OutBuf) : Except FaultCode OutBuf :=
  let sc := s.session.scale.toNat
  match outAppendAll s.dev.outBytes b (gceBytes acc) with
  | .error e => .error e
  | .ok b =>
    match outAppendAll s.dev.outBytes b (imgDescBytes (r.x * sc) (r.y * sc) (r.w * sc) (r.h * sc)) with
    | .error e => .error e
    | .ok b =>
      match lzwStream s.dev s.session.psize (extract (s.frame f) r s.session.width.toNat sc) with
      | .error e => .error e
      | .ok bytes => outAppendAll s.dev.outBytes b bytes

/-- One iteration of the loop of 40_container.md R160: coalesce with an equal successor (R163), coalesce an empty
difference (R166), or emit and start a new accumulation (R171). -/
def finishFrame (s : State) (f : Nat) (k : FinishPass) (b : OutBuf) : Except FaultCode (FinishPass × OutBuf) :=
  let q := s.session.quantum.toNat
  if f + 1 < s.nframes ∧ s.frame f = s.frame (f + 1) then .ok ({ k with acc := k.acc + q }, b)
  else
    match finishRect s k.last f with
    | none => .ok ({ k with acc := k.acc + q }, b)
    | some r =>
      match emitFrame s k.acc f r b with
      | .error e => .error e
      | .ok b' => .ok ({ last := some f, acc := q }, b')

/-- The loop of 40_container.md R160 over a list of frame indices. -/
def finishLoop (s : State) : List Nat → FinishPass → OutBuf → Except FaultCode OutBuf
  | [], _, b => .ok b
  | f :: fs, k, b =>
    match finishFrame s f k b with
    | .error e => .error e
    | .ok (k', b') => finishLoop s fs k' b'

/-- What FINISH appends to OUT (40_container.md R160, R161, R172). -/
def finishOut (s : State) : Except FaultCode OutBuf :=
  if s.nframes = 0 then outAppendAll s.dev.outBytes s.out.redraw [trailerByte]
  else
    match finishLoop s (List.range s.nframes) { last := none, acc := s.session.quantum.toNat } s.out.redraw with
    | .error e => .error e
    | .ok b => outAppendAll s.dev.outBytes b [trailerByte]

/-- The pseudocode of FINISH (40_container.md R160, R173, R176). -/
def finishBody (s : State) : State :=
  match finishOut s with
  | .error e => raiseRunningFault e s
  | .ok b => (s.setOut b).setPhase .finalized

/-- FINISH (40_container.md R160). -/
def execFinish (s : State) : Host.Outcome State Fault Refusal := issue .finish s (finishBody s)

/-! ## DIFF_RECT (40_container.md R180) -/

/-- The registers DIFF_RECT writes for a difference rectangle (40_container.md R180). -/
def reportRect (s : State) : Option Rect → State
  | none => s.setRect true 0 0
  | some r => s.setRect false (packHalves r.y r.x) (packHalves r.h r.w)

/-- The pseudocode of DIFF_RECT (40_container.md R180). -/
def diffRectBody (s : State) : State :=
  if s.nframes ≤ s.arg0Nat ∨ s.nframes ≤ s.arg1Nat then raiseFault .frameIndex s
  else
    reportRect s
      (bbox (s.frame s.arg0Nat) (s.frame s.arg1Nat) s.session.width.toNat s.session.height.toNat)

/-- DIFF_RECT (40_container.md R180). -/
def execDiffRect (s : State) : Host.Outcome State Fault Refusal := issue .diffRect s (diffRectBody s)

end Sys2Proof.Machine
end

