-- ==== Sys2Proof/Machine/System.lean ====
section
/-! DEFINITION. The system commands (43_system.md): NOP and SOFT_RESET. -/

namespace Sys2Proof.Machine

/-- NOP: no effect (43_system.md R270). -/
def execNop (s : State) : Host.Outcome State Fault Refusal := issue .nop s s

/-- SOFT_RESET: the reset of 70_reset_and_hazards.md R320 (43_system.md R271). -/
def execSoftReset (s : State) : Host.Outcome State Fault Refusal := issue .softReset s (doReset s)

end Sys2Proof.Machine
end

