-- ==== Sys2Proof/Machine/Dispatch.lean ====
section
/-! DEFINITION. One arm per command: each calls the command's own meaning. -/

namespace Sys2Proof.Machine

-- What a legal command does in any state (30_encoding.md R110, after decoding).
def exec (i : Instr) (s : State) : Host.Outcome State Fault Refusal :=
  match i with
  | .nop => Sys2Proof.Machine.execNop s
  | .softReset => Sys2Proof.Machine.execSoftReset s
  | .configure => Sys2Proof.Machine.execConfigure s
  | .addFrame => Sys2Proof.Machine.execAddFrame s
  | .finish => Sys2Proof.Machine.execFinish s
  | .diffRect => Sys2Proof.Machine.execDiffRect s
  | .lzwEncode => Sys2Proof.Machine.execLzwEncode s
  | .hashInit => Sys2Proof.Machine.execHashInit s
  | .hashExtend => Sys2Proof.Machine.execHashExtend s
  | .hashSeq => Sys2Proof.Machine.execHashSeq s

end Sys2Proof.Machine
end

