-- ==== Sys2Proof/Machine/HostBus.lean ====
section
/-! DEFINITION. The host bus (20_memory.md): reads, writes, the command port, and one transaction of the host. -/

namespace Sys2Proof.Machine

/-- Word `j` of the OUT window (20_memory.md R83): four bytes, the lowest index in bits [7:0]. -/
def State.outWord (s : State) (j : Nat) : Word :=
  (s.outByte (4 * j)).setWidth 32
    ||| (s.outByte (4 * j + 1)).setWidth 32 <<< 8
    ||| (s.outByte (4 * j + 2)).setWidth 32 <<< 16
    ||| (s.outByte (4 * j + 3)).setWidth 32 <<< 24

/-- `MemRead(a, 4)` (20_memory.md R86) by the address map of R81: a register, IN[i], an OUT word, or 0. -/
def memRead (s : State) (a : Word) : Word :=
  if a.toNat < regEnd then
    match Reg.ofOffset a.toNat with
    | some r => readReg s r
    | none => 0
  else if inBase ≤ a.toNat ∧ a.toNat < inBase + windowBytes then
    if (a.toNat - inBase) / 4 < s.dev.inWords then s.inWord ((a.toNat - inBase) / 4) else 0
  else if outBase ≤ a.toNat ∧ a.toNat < outBase + windowBytes then
    if a.toNat - outBase < s.dev.outBytes then s.outWord ((a.toNat - outBase) / 4) else 0
  else 0

/-- `MemWrite(a, 4, v)` anywhere but at CMD (20_memory.md R87): a register's used bits, an IN word below IN_WORDS, or
no effect. -/
def plainWrite (s : State) (a v : Word) : State :=
  if a.toNat < regEnd then
    match Reg.ofOffset a.toNat with
    | some r => writeReg s v r
    | none => s
  else if inBase ≤ a.toNat ∧ a.toNat < inBase + windowBytes then
    if (a.toNat - inBase) / 4 < s.dev.inWords then s.setIn ((a.toNat - inBase) / 4) v else s
  else s

/-- A word that is no command (30_encoding.md R110, R116): ILLEGAL_COMMAND, or no effect in FAULT. -/
def illegalWord (s : State) : State := if s.phase = .fault then s else raiseFault .illegalCommand s

/-- A host write of `w` to CMD (30_encoding.md R110): the command runs to completion before the write completes
(10_state.md R37). -/
def runCommand (w : Word) (s : State) : Host.Outcome State Fault Refusal :=
  match decode w with
  | .ok i => exec i s
  | .error _ => .next (illegalWord s)

/-- `MemWrite(a, 4, v)` (20_memory.md R87). -/
def memWrite (s : State) (a v : Word) : Host.Outcome State Fault Refusal :=
  if a = Reg.addr .cmd then runCommand v s else .next (plainWrite s a v)

/-- One transaction of the host (20_memory.md R97). -/
def hostEvent (e : HostEvent) (s : State) : Host.Outcome State Fault Refusal :=
  match e with
  | .read a n => if accessOk a n then .next (s.pushRead (memRead s a)) else .refused (.accessOutsideInterface a n)
  | .write a n v => if accessOk a n then memWrite s a v else .refused (.accessOutsideInterface a n)
  | .reset => .next (doReset s)

end Sys2Proof.Machine
end

