-- ==== Sys2Proof/Machine/Step.lean ====
section
/-! DEFINITION. One step of the machine: the next transaction of the host's script (30_encoding.md R125). -/

namespace Sys2Proof.Machine

/-- One step. The block has no program counter; "a model's position in the script plays the role of a pc"
(92_eei_decisions.md D15). With nothing left to send, the block "does nothing on its own" (60_exceptions.md R303):
the step answers the same state. DESIGN CHOICE (safe; log entry 2). -/
def step (s : State) : Host.Outcome State Fault Refusal :=
  match s.script with
  | [] => .next s
  | e :: es => hostEvent e (s.setScript es)

/-- The state in which the host's next transaction is the CMD write of the given command word. -/
def State.withFetchWord (s : State) (nbits w : Nat) : State :=
  s.setScript (.write (Reg.addr .cmd) 4 (tableWord nbits w) :: s.script)

end Sys2Proof.Machine
end

