-- ==== Sys2Proof/Machine/Script.lean ====
section
/-! DEFINITION. Host scripts (30_encoding.md R125 to R130): the transactions each line stands for, what a test
directive asks, and a run of a script. -/

namespace Sys2Proof.Machine

/-- The address a script line names (30_encoding.md R126). -/
def RegRef.address : RegRef → Word
  | .named r => r.addr
  | .addr a => a

/-- `WR reg, value`. -/
def writeTo (r : Reg) (v : Word) : HostEvent := .write r.addr 4 v

/-- `WRIN i, value`. DESIGN CHOICE (safe): an address past 32 bits, which the spec does not define, wraps mod 2^32; the
line is ill-formed (log entry 23). -/
def writeIn (i : Nat) (v : Word) : HostEvent := .write (BitVec.ofNat 32 (inBase + 4 * i)) 4 v

/-- `RDOUT j`. DESIGN CHOICE (safe): an address past 32 bits, which the spec does not define, wraps mod 2^32; the line is
ill-formed (log entry 23). -/
def readOut (j : Nat) : HostEvent := .read (BitVec.ofNat 32 (outBase + 4 * j)) 4

/-- A mnemonic: `WR CMD, its word`. -/
def issueCommand (i : Instr) : HostEvent := writeTo .cmd (encode i)

/-- `WRIN k, v0`, `WRIN k+1, v1`, ... -/
def writeInFrom : Nat → List Word → List HostEvent
  | _, [] => []
  | k, v :: vs => writeIn k v :: writeInFrom (k + 1) vs

/-- `WR PALk, c0`, `WR PALk+1, c1`, ... DESIGN CHOICE (safe): past PAL15, where the spec names no register, the index
wraps mod 16; the line is ill-formed (log entry 23). -/
def writePalFrom : Nat → List Word → List HostEvent
  | _, [] => []
  | k, c :: cs => writeTo (.pal (Fin.ofNat maxPalette k)) c :: writePalFrom (k + 1) cs

/-- The bus transactions a script line stands for (30_encoding.md R125 to R130). EXPECT is the read it makes;
EXPECTOUT and a comment send nothing. -/
def ScriptLine.events : ScriptLine → List HostEvent
  | .wr r v => [.write r.address 4 v]
  | .rd r => [.read r.address 4]
  | .wrin i v => [writeIn i v]
  | .rdout j => [readOut j]
  | .command i => [issueCommand i]
  | .cmdw v => [writeTo .cmd v]
  | .reset => [.reset]
  | .comment _ => []
  | .run i a0 none => [writeTo .arg0 a0, issueCommand i]
  | .run i a0 (some a1) => [writeTo .arg0 a0, writeTo .arg1 a1, issueCommand i]
  | .loadin vs => writeInFrom 0 vs
  | .loadinTimes v n => writeInFrom 0 (List.replicate n v)
  | .setpal cs => writePalFrom 0 cs
  | .expect r _ => [.read r.address 4]
  | .expectOut _ => []

/-- What a test directive asks of the state it stands at (30_encoding.md R130). Other lines ask nothing. -/
def ScriptLine.asks (s : State) : ScriptLine → Bool
  | .expect r v => memRead s r.address == v
  | .expectOut bs => s.outlen.toNat == bs.length && s.outBytes == bs
  | .wr _ _ | .rd _ | .wrin _ _ | .rdout _ | .command _ | .cmdw _ | .reset | .comment _ => true
  | .run _ _ _ | .loadin _ | .loadinTimes _ _ | .setpal _ => true

/-- The transactions of a whole script, in order. -/
def scriptEvents (ls : List ScriptLine) : List HostEvent := ls.flatMap ScriptLine.events

/-- A list of transactions, in order, stopping at one that has no step. -/
def runEvents : List HostEvent → State → Host.Outcome State Fault Refusal
  | [], s => .next s
  | e :: es, s =>
    match hostEvent e s with
    | .next s' => runEvents es s'
    | .fault r => .fault r
    | .refused r => .refused r

/-- Every test directive of a script holds where it stands, and every line has its steps. -/
def scriptPasses : List ScriptLine → State → Bool
  | [], _ => true
  | l :: ls, s =>
    l.asks s &&
      match runEvents l.events s with
      | .next s' => scriptPasses ls s'
      | .fault _ => false
      | .refused _ => false

end Sys2Proof.Machine
end

