-- ==== Sys2Proof/WellFormed.lean ====
section
/-! DEFINITION. Which terms of the syntax mean something: the ranges of the device parameters, the accesses the bus
carries, the script lines whose indices have an address. A command has no operand (30_encoding.md R113), so there is
no ill-formed one. -/

namespace Sys2Proof

/-- Every command is well formed: it carries no field that could be out of range (30_encoding.md R113). -/
def Instr.wf : Instr → Bool
  | .nop | .softReset | .configure | .addFrame | .finish => true
  | .diffRect | .lzwEncode | .hashInit | .hashExtend | .hashSeq => true

/-- The ranges of 00_scope.md R8. -/
def Params.wf (d : Params) : Bool :=
  (1 ≤ d.inWords && d.inWords ≤ 2 ^ 22) && (1 ≤ d.outBytes && d.outBytes ≤ 2 ^ 24) && 1 ≤ d.maxFrames

namespace Machine

/-- The host's transactions that have a step (20_memory.md R88). -/
def HostEvent.wf : HostEvent → Bool
  | .read a n => accessOk a n
  | .write a n _ => accessOk a n
  | .reset => true

/-- A numeric address in a script line is one the bus carries (30_encoding.md R126, 20_memory.md R88). -/
def RegRef.wf : RegRef → Bool
  | .named _ => true
  | .addr a => accessOk a 4

/-- A script line names only addresses the bus has (20_memory.md R80) and only the palette entries PAL0 .. PAL15
(30_encoding.md R126). The spec bounds neither the indices of WRIN and RDOUT nor the counts of LOADIN and SETPAL
(R125, R128, R129) and does not say what an address past 32 bits is. DESIGN CHOICE (safe): a line with one, or with a
palette index above 15, is ill-formed; any other index is well formed, also above its window, where 20_memory.md R81
says what the access does (log entry 23). -/
def ScriptLine.wf : ScriptLine → Bool
  | .wr r _ | .rd r | .expect r _ => r.wf
  | .wrin i _ => inBase + 4 * i < 2 ^ 32
  | .rdout j => outBase + 4 * j < 2 ^ 32
  | .loadin vs => inBase + 4 * vs.length ≤ 2 ^ 32
  | .loadinTimes _ n => inBase + 4 * n ≤ 2 ^ 32
  | .setpal cs => cs.length ≤ maxPalette
  | .command i | .run i _ _ => i.wf
  | .cmdw _ | .reset | .comment _ | .expectOut _ => true

end Machine

end Sys2Proof
end

