-- ==== Sys2Proof/Safety.lean ====
section
/-! DEFINITION. What claims about the block are said in: when a run succeeds (70_reset_and_hazards.md R340), the
invariant of the states a run can reach, and the whole-stream reading of FINISH and of the compressor's codes. -/

namespace Sys2Proof.Machine

/-! ## The end of a run (70_reset_and_hazards.md R340) -/

/-- "A run succeeds if its final STATE ≠ FAULT." -/
abbrev State.succeeded (s : State) : Prop := s.phase ≠ .fault

/-- "Its GIF stream is valid ... only if the final STATE = FINALIZED." -/
def State.artifact (s : State) : Option (List Byte) :=
  if s.phase = .finalized then some s.outBytes else none

/-- The next transaction of the host is a reset: the reset input, or a CMD write of 0x0100_0000
(60_exceptions.md R294). -/
def State.resetsNext (s : State) : Bool :=
  match s.script with
  | .reset :: _ => true
  | .write a n v :: _ => accessOk a n && a == Reg.addr .cmd && v == 0x01000000
  | _ => false

/-! ## The invariant -/

/-- IN: canonical form, and only words the device has (10_state.md R57). -/
abbrev State.InOk (s : State) : Prop :=
  Memory.wf s.inMem ∧ ∀ c ∈ s.inMem, c.1 < s.dev.inWords

/-- A fault raised by a command that was already running (60_exceptions.md R293 (b)). -/
abbrev FaultCode.isRunning (c : FaultCode) : Prop := c = .symbolRange ∨ c = .outOverflow

/-- OUT: canonical form, only bytes the device has, and, unless a running command has faulted, exactly the bytes below
OUTLEN are held (10_state.md R56, R44; 60_exceptions.md R293). -/
abbrev State.OutOk (s : State) : Prop :=
  Memory.wf s.out.cells ∧ (∀ c ∈ s.out.cells, c.1 < s.dev.outBytes) ∧
    (¬ s.faultCode.isRunning →
      s.out.len.toNat ≤ s.dev.outBytes ∧ s.out.cells.map Prod.fst = List.range s.out.len.toNat)

/-- FAULT_CODE "is 0 (NONE) whenever STATE ≠ FAULT", and a fault has a code (10_state.md R36). -/
abbrev State.FaultOk (s : State) : Prop := s.faultCode = .noFault ↔ s.phase ≠ .fault

/-- What CONFIGURE has checked holds of the latched session while it is in use (40_container.md R141). -/
abbrev State.SessionOk (s : State) : Prop :=
  s.phase = .accumulating ∨ s.phase = .finalized →
    1 ≤ s.session.width.toNat ∧ 1 ≤ s.session.height.toNat ∧ 1 ≤ s.session.scale.toNat ∧
      s.session.pixels ≤ s.dev.inWords ∧
      s.session.palette.length = s.session.psize.toNat ∧ s.session.palette.Nodup

/-- The frame store: at most MAX_FRAMES frames, none in IDLE, each of W*H indices, each index below P or the sentinel
(10_state.md R55). -/
abbrev State.FramesOk (s : State) : Prop :=
  s.frames.length ≤ s.dev.maxFrames ∧ (s.phase = .idle → s.frames = []) ∧
    ∀ f ∈ s.frames, f.length = s.session.pixels ∧ ∀ x ∈ f, x < s.session.psize.toNat ∨ x = sentinelIndex

/-- An empty difference is reported with both rectangle registers 0 (10_state.md R47, R48). -/
abbrev State.RectOk (s : State) : Prop := s.rectEmpty = true → s.rectXY = 0 ∧ s.rectWH = 0

/-- The invariant of the block: it holds after reset and every step keeps it. -/
abbrev State.Inv (s : State) : Prop :=
  s.dev.wf = true ∧ s.InOk ∧ s.OutOk ∧ s.FaultOk ∧ s.SessionOk ∧ s.FramesOk ∧ s.RectOk

/-! ## FINISH as a whole (40_container.md R163 to R173) -/

/-- The frames FINISH emits: the last of each run of equal consecutive frames (40_container.md R163). -/
def State.emitted (s : State) : List Nat :=
  (List.range s.nframes).filter fun f => f + 1 == s.nframes || s.frame f != s.frame (f + 1)

/-- How many frames an emitted frame stands for: those after the frame emitted before it, itself included. -/
def runLength (prev : Option Nat) (f : Nat) : Nat :=
  match prev with
  | none => f + 1
  | some e => f - e

/-- The (GCE, Image Descriptor, LZW data) triple of frame `f`, emitted after `prev` (40_container.md R168 to R170,
R173): its delay is one quantum for each frame it stands for. -/
def State.triple (s : State) (prev : Option Nat) (f : Nat) (r : Rect) : Except FaultCode (List Byte) :=
  let sc := s.session.scale.toNat
  match lzwStream s.dev s.session.psize (extract (s.frame f) r s.session.width.toNat sc) with
  | .error e => .error e
  | .ok bytes =>
    .ok (gceBytes (runLength prev f * s.session.quantum.toNat)
      ++ imgDescBytes (r.x * sc) (r.y * sc) (r.w * sc) (r.h * sc) ++ bytes)

/-- The triples of the frames `fs`, emitted in order after `prev`. -/
def State.triples (s : State) : Option Nat → List Nat → Except FaultCode (List Byte)
  | _, [] => .ok []
  | prev, f :: fs =>
    match finishRect s prev f with
    | none => State.triples s prev fs
    | some r =>
      match s.triple prev f r with
      | .error e => .error e
      | .ok a =>
        match State.triples s (some f) fs with
        | .error e => .error e
        | .ok b => .ok (a ++ b)

/-! ## A reference decoder for the compressor's codes

The standard GIF LZW decoder as 95_test_vectors.md uses it (93_implementation_defined.md G6, G11): it adds its
dictionary entry one code late. It reads code values; their widths are the packer's concern. PRESUMED (safe: no step
uses it; log entry 21). -/

/-- The sequence a code stands for, given the entries added so far (the first has code P + 2). -/
def decodeEntry (p : PaletteSize) (entries : List (List Nat)) (c : Nat) : Option (List Nat) :=
  if c < p.toNat then some [c]
  else if c < seedSize p then none
  else entries[c - seedSize p]?

/-- Decode the codes after a clear code. `prev` is the sequence of the previous code, none right after a clear. -/
def decodeCodes (p : PaletteSize) (entries : List (List Nat)) (prev : Option (List Nat)) :
    List Nat → Option (List Nat)
  | [] => none
  | c :: cs =>
    if c = eoiCode p then (if cs = [] then some [] else none)
    else if c = clearCode p then decodeCodes p [] none cs
    else
      match prev with
      | none =>
        match decodeEntry p entries c with
        | none => none
        | some q => (decodeCodes p entries (some q) cs).map (q ++ ·)
      | some b =>
        -- The code may be the very entry that is being added: then its last symbol is its first.
        match decodeEntry p (entries ++ [b ++ b.take 1]) c with
        | none => none
        | some q => (decodeCodes p (entries ++ [b ++ q.take 1]) (some q) cs).map (q ++ ·)

/-- The symbols a list of emitted codes stands for: it begins with a clear code and ends with EOI. -/
def decodedSymbols (p : PaletteSize) (codes : List Code) : Option (List Nat) :=
  match codes.map Code.value with
  | c :: cs => if c = clearCode p then decodeCodes p [] none cs else none
  | [] => none

end Sys2Proof.Machine
end

