-- ==== Sys2Proof/Certificates/Slice0/Obligations.lean ====
section
/-! DEFINITION. The statements for the provers. Each docstring names the rules of spec/ it formalises. -/

open Sys2Proof Sys2Proof.Machine

/-! ## The step and the host bus -/

/-- A step on a CMD write of a word that decodes to a command is that command at the state in which the transaction
is taken from the script (30_encoding.md R110, R125; 10_state.md R37). That State holds the script is the model's
choice (log entry 1). -/
def Obligations.StepRunsTheDecodedCommand : Prop :=
  ∀ (s : State) (w : Word) (i : Instr) (es : List HostEvent),
    s.script = .write 0x008#32 4 w :: es → decode w = .ok i → step s = exec i { s with script := es }

/-- What a step does with every other kind of transaction, and with none: a read returns the addressed value to the
host and changes nothing else; a write elsewhere than CMD acts; a reset resets; with nothing to do the block does
nothing (20_memory.md R86, R87, R97; the last clause is the model's choice, log entry 2; what a read returns is kept
in `readData`, log entry 11). -/
def Obligations.StepPerformsTheNextTransaction : Prop :=
  ∀ (s : State) (es : List HostEvent),
    (s.script = [] → step s = .next s) ∧
    (∀ a : Word, a.toNat % 4 = 0 → s.script = .read a 4 :: es →
      step s = .next { s with script := es, readData := s.readData ++ [memRead s a] }) ∧
    (∀ a v : Word, a.toNat % 4 = 0 → a ≠ 0x008#32 → s.script = .write a 4 v :: es →
      step s = .next (plainWrite { s with script := es } a v)) ∧
    (s.script = .reset :: es → step s = .next (doReset { s with script := es }))

/-- 20_memory.md R88: an access of another size or a misaligned one has no step. -/
def Obligations.AccessOutsideTheInterfaceHasNoStep : Prop :=
  ∀ (s : State) (a v : Word) (n : Nat) (es : List HostEvent), n ≠ 4 ∨ a.toNat % 4 ≠ 0 →
    (s.script = .read a n :: es → step s = .refused (.accessOutsideInterface a n)) ∧
    (s.script = .write a n v :: es → step s = .refused (.accessOutsideInterface a n))

/-- A command word placed as the next transaction is the command the next step runs, in every state
(30_encoding.md R110, R112; placing it in the script is the model's choice, log entries 1 and 20). -/
def Obligations.PlacedCommandWordRunsNext : Prop :=
  ∀ (s : State) (i : Instr),
    decodeTableWord 32 (encode i).toNat = some i ∧ step (s.withFetchWord 32 (encode i).toNat) = exec i s

/-- A run of a well-formed host script takes one step for each transaction and ends with none left
(70_reset_and_hazards.md R340, R341; one step for one transaction is the model's choice, log entry 1). -/
def Obligations.EveryScriptRunsToItsEnd : Prop :=
  ∀ s : State, (∀ e ∈ s.script, e.wf = true) →
    ∃ t, Host.Core.run Sys2Proof.core s.script.length s = .next t ∧ t.script = [] ∧
      runEvents s.script { s with script := [] } = .next t

/-- 30_encoding.md R125, R127 to R129: RUN writes its operands to ARG0 and ARG1 and issues the command; LOADIN puts
its values at IN[0], IN[1], ... and touches no other word; SETPAL puts its colours at PAL0, PAL1, ... and touches no
other entry. -/
def Obligations.ScriptLinesDoWhatTheyExpandTo : Prop :=
  ∀ s : State,
    (∀ i a0, runEvents (ScriptLine.run i a0 none).events s = exec i { s with arg0 := a0 }) ∧
    (∀ i a0 a1, runEvents (ScriptLine.run i a0 (some a1)).events s = exec i { s with arg0 := a0, arg1 := a1 }) ∧
    (∀ vs : List Word, s.dev.wf = true → vs.length ≤ s.dev.inWords →
      ∃ t, runEvents (ScriptLine.loadin vs).events s = .next t ∧ t = { s with inMem := t.inMem } ∧
        ∀ j, t.inWord j = vs.getD j (s.inWord j)) ∧
    (∀ cs : List Word, cs.length ≤ 16 →
      ∃ t, runEvents (ScriptLine.setpal cs).events s = .next t ∧ t = { s with palette := t.palette } ∧
        ∀ k : Fin 16, readReg t (.pal k) = cs.getD k.val (readReg s (.pal k)))

/-! ## Encoding -/

/-- Words written out from 30_encoding.md R111 and R112, and words R116 calls illegal. -/
def Obligations.CommandWordsDecodeFromTheOpcodeMap : Prop :=
  decode 0b00000000000000000000000000000000#32 = .ok .nop ∧
  decode 0b00000001000000000000000000000000#32 = .ok .softReset ∧
  decode 0b00010011000000000000000000000000#32 = .ok .diffRect ∧
  decode 0b00100000000000000000000000000000#32 = .ok .lzwEncode ∧
  decode 0b00110010000000000000000000000000#32 = .ok .hashSeq ∧
  decode 0b00010100000000000000000000000000#32 = .error (.unknownOpcode 0x14) ∧
  decode 0b00010001000000000000000000000101#32 = .error (.reservedBits 0x5)

/-- 30_encoding.md R112, R119: a word stands for a command exactly when it is that command's word of the table; and
decoding an encoded command gives it back. -/
def Obligations.LegalWordsAreTheTenOfTheTable : Prop :=
  (∀ (w : Word) (i : Instr), decode w = .ok i ↔
    (w, i) ∈ [(0x00000000#32, .nop), (0x01000000#32, .softReset), (0x10000000#32, .configure),
      (0x11000000#32, .addFrame), (0x12000000#32, .finish), (0x13000000#32, .diffRect),
      (0x20000000#32, .lzwEncode), (0x30000000#32, Instr.hashInit), (0x31000000#32, .hashExtend),
      (0x32000000#32, .hashSeq)]) ∧
  ∀ i : Instr, decode (encode i) = .ok i

/-- 30_encoding.md R116: a word whose OPCODE is not in the map, or whose bits [23:0] are not all 0, raises
ILLEGAL_COMMAND outside FAULT and is ignored in FAULT. -/
def Obligations.IllegalWordsRaiseIllegalCommand : Prop :=
  ∀ (s : State) (w : Word),
    w.toNat / 2 ^ 24 ∉ [0x00, 0x01, 0x10, 0x11, 0x12, 0x13, 0x20, 0x30, 0x31, 0x32] ∨ w.toNat % 2 ^ 24 ≠ 0 →
    (s.phase ≠ .fault →
      runCommand w s = .next { s with phase := .fault, faultCode := .illegalCommand }) ∧
    (s.phase = .fault → runCommand w s = .next s)

/-! ## Registers and address map -/

/-- 20_memory.md R87, 10_state.md R31: a write sets the used bits of a read-write register and changes no other
register; a write to a read-only register has no effect. No register write reaches the memories, the frame store or
the session. -/
def Obligations.RegisterWriteSetsItsUsedBits : Prop :=
  ∀ (s : State) (v : Word) (r : Reg),
    readReg (writeReg s v r) r =
      (match r with
        | .arg0 | .arg1 | .hash | .pal _ => v
        | .width | .height | .scale | .quantum => v &&& 0xFFFF#32
        | .psize => v &&& 0x1F#32
        | .id | .status | .cmd | .outlen | .nframes | .rectXY | .rectWH => readReg s r
        | .capIn | .capOut | .capFrames | .params => readReg s r) ∧
    (∀ r' : Reg, r' ≠ r → readReg (writeReg s v r) r' = readReg s r') ∧
    (writeReg s v r).out = s.out ∧ (writeReg s v r).inMem = s.inMem ∧
    (writeReg s v r).inEpoch = s.inEpoch ∧ (writeReg s v r).frames = s.frames ∧
    (writeReg s v r).session = s.session ∧ (writeReg s v r).dev = s.dev ∧
    (writeReg s v r).script = s.script ∧ (writeReg s v r).readData = s.readData

/-- 10_state.md R31, R37: every register answers at its offset, and CMD is the command port. -/
def Obligations.RegistersAnswerAtTheirOffsets : Prop :=
  ∀ (s : State) (v : Word),
    (∀ r ∈ [(0x000, Reg.id), (0x004, .status), (0x008, .cmd), (0x00C, .arg0), (0x010, .arg1), (0x014, .width),
        (0x018, .height), (0x01C, .scale), (0x020, .psize), (0x024, .quantum), (0x028, .outlen),
        (0x02C, .nframes), (0x030, .hash), (0x034, .rectXY), (0x038, .rectWH), (0x03C, .capIn),
        (0x040, .capOut), (0x044, .capFrames), (0x048, .params)],
      memRead s (BitVec.ofNat 32 r.1) = readReg s r.2 ∧
      (r.2 ≠ .cmd → memWrite s (BitVec.ofNat 32 r.1) v = .next (writeReg s v r.2))) ∧
    (∀ i : Fin 16,
      memRead s (BitVec.ofNat 32 (0x080 + 4 * i.val)) = readReg s (.pal i) ∧
      memWrite s (BitVec.ofNat 32 (0x080 + 4 * i.val)) v = .next (writeReg s v (.pal i))) ∧
    memRead s 0x008#32 = 0 ∧ memWrite s 0x008#32 v = runCommand v s

/-- 10_state.md R52, 20_memory.md R81: a reserved register offset, an address outside every region, and a window
above its memory read 0 and ignore writes; the OUT window ignores every write. -/
def Obligations.UnmappedAddressesReadZeroAndIgnoreWrites : Prop :=
  ∀ (s : State) (a v : Word), s.dev.wf = true → a.toNat % 4 = 0 →
    ((0x04C ≤ a.toNat ∧ a.toNat < 0x080 ∨ 0x0C0 ≤ a.toNat ∧ a.toNat < 0x01000000 ∨
        0x01000000 + 4 * s.dev.inWords ≤ a.toNat ∧ a.toNat < 0x02000000 ∨
        0x02000000 + s.dev.outBytes ≤ a.toNat) →
      memRead s a = 0 ∧ memWrite s a v = .next s) ∧
    (0x02000000 ≤ a.toNat → memWrite s a v = .next s)

/-- 10_state.md R33, with the codes of R34 and 60_exceptions.md R281: the fields of STATUS, bit by bit, as the host
reads them at 0x004; a write there has no effect. -/
def Obligations.StatusFieldsStandWhereTheRuleSays : Prop :=
  ∀ s : State,
    let w := memRead s 0x004#32
    w.extractLsb' 0 2 =
      (match s.phase with | .idle => 0 | .accumulating => 1 | .finalized => 2 | .fault => 3) ∧
    w.getLsbD 2 = s.rectEmpty ∧
    w.extractLsb' 3 5 = 0 ∧
    w.extractLsb' 8 8 =
      (match s.faultCode with
        | .noFault => 0 | .illegalCommand => 1 | .badState => 2 | .badConfig => 3 | .dimension => 4
        | .emptyInput => 5 | .symbolRange => 6 | .inRange => 7 | .frameIndex => 8 | .frameStoreFull => 9
        | .outOverflow => 10) ∧
    w.extractLsb' 16 16 = 0 ∧
    ∀ v, memWrite s 0x004#32 v = .next s

/-- 10_state.md R50, R51: the capability registers read the device parameters, writes to them have no effect, and no
step changes them. That CAP_FRAMES of a device with MAX_FRAMES of 2^32 or more reads it mod 2^32 is the model's reading
(DEDUCED, log entry 4). -/
def Obligations.CapabilityRegistersAreConstant : Prop :=
  ∀ s : State,
    memRead s 0x03C#32 = BitVec.ofNat 32 s.dev.inWords ∧ memRead s 0x040#32 = BitVec.ofNat 32 s.dev.outBytes ∧
    memRead s 0x044#32 = BitVec.ofNat 32 s.dev.maxFrames ∧
    (memRead s 0x048#32).getLsbD 0 = decide (s.dev.dictKey = .exactSeq) ∧
    (memRead s 0x048#32).getLsbD 1 = s.dev.finalGrowth ∧ (memRead s 0x048#32).getLsbD 2 = s.dev.termAlways ∧
    (memRead s 0x048#32).extractLsb' 3 29 = 0 ∧
    ∀ a ∈ [0x03C#32, 0x040#32, 0x044#32, 0x048#32],
      (∀ v, memWrite s a v = .next s) ∧ ∀ t, step s = .next t → memRead t a = memRead s a

/-- 20_memory.md R82: a host write to word i of the IN window sets IN[i] and nothing else; a read there returns it. -/
def Obligations.InWordReadsBackAsWritten : Prop :=
  ∀ (s : State) (i : Nat) (v : Word), s.dev.wf = true → i < s.dev.inWords →
    ∃ t, memWrite s (BitVec.ofNat 32 (0x01000000 + 4 * i)) v = .next t ∧
      t = { s with inMem := t.inMem } ∧ t.inWord i = v ∧ (∀ j, j ≠ i → t.inWord j = s.inWord j) ∧
      memRead t (BitVec.ofNat 32 (0x01000000 + 4 * i)) = v ∧
      memRead s (BitVec.ofNat 32 (0x01000000 + 4 * i)) = s.inWord i

/-- 20_memory.md R83: word j of the OUT window is four bytes, the lowest index in the low bits; a byte at or above
OUT_BYTES reads 0; a write there has no effect. -/
def Obligations.OutWindowReadsBytesLittleEndian : Prop :=
  ∀ (s : State) (j : Nat), s.dev.wf = true → 4 * j < s.dev.outBytes →
    let w := memRead s (BitVec.ofNat 32 (0x02000000 + 4 * j))
    (∀ b, b < 4 → w.extractLsb' (8 * b) 8 = s.outByte (4 * j + b)) ∧
    (∀ k, s.dev.outBytes ≤ k → s.outByte k = 0) ∧
    ∀ v, memWrite s (BitVec.ofNat 32 (0x02000000 + 4 * j)) v = .next s

/-! ## Reset, faults and the state machine -/

/-- 43_system.md R271, 70_reset_and_hazards.md R320: SOFT_RESET and the reset input have the same effect, in every
state, FAULT included: every register takes its reset value and the frame store is emptied. That a reset keeps the host's
script and the record of its reads (the last two clauses) is the model's choice (log entry 12). -/
def Obligations.BothResetsLeaveTheResetRegisters : Prop :=
  ∀ s : State, ∃ t, exec .softReset s = .next t ∧ hostEvent .reset s = .next t ∧
    t.phase = .idle ∧ t.faultCode = .noFault ∧ t.rectEmpty = false ∧
    readReg t .id = 0x4C5A5737 ∧ readReg t .status = 0 ∧ readReg t .arg0 = 0 ∧ readReg t .arg1 = 0 ∧
    readReg t .width = 0 ∧ readReg t .height = 0 ∧ readReg t .scale = 1 ∧ readReg t .psize = 16 ∧
    readReg t .quantum = 0 ∧ readReg t .outlen = 0 ∧ readReg t .nframes = 0 ∧ readReg t .hash = 487 ∧
    readReg t .rectXY = 0 ∧ readReg t .rectWH = 0 ∧ (∀ i, readReg t (.pal i) = 0) ∧
    t.frames = [] ∧ t.dev = s.dev ∧ t.script = s.script ∧ t.readData = s.readData

/-- 70_reset_and_hazards.md R321, R320: the same register values at power-on. The sizes the capability registers
show are the model's choice (log entry 3). -/
def Obligations.PowerOnStateHoldsTheResetValues : Prop :=
  let t := State.reset
  readReg t .id = 0x4C5A5737 ∧ readReg t .status = 0 ∧ readReg t .arg0 = 0 ∧ readReg t .arg1 = 0 ∧
    readReg t .width = 0 ∧ readReg t .height = 0 ∧ readReg t .scale = 1 ∧ readReg t .psize = 16 ∧
    readReg t .quantum = 0 ∧ readReg t .outlen = 0 ∧ readReg t .nframes = 0 ∧ readReg t .hash = 487 ∧
    readReg t .rectXY = 0 ∧ readReg t .rectWH = 0 ∧ (∀ i, readReg t (.pal i) = 0) ∧ t.frames = [] ∧
    t.inMem = [] ∧ t.out.cells = []

/-- 60_exceptions.md R294, R295 and 70_reset_and_hazards.md R322, with 10_state.md R34: the transitions of the state
machine. A step whose transaction is a reset ends in IDLE with no fault; any other step follows the listed edges, so
IDLE is entered only by reset, and FAULT is left only by reset. -/
def Obligations.StateMachineFollowsItsEdges : Prop :=
  ∀ s t : State, step s = .next t →
    if s.resetsNext = true then t.phase = .idle ∧ t.faultCode = .noFault
    else
      (s.phase, t.phase) ∈
        [(.idle, .idle), (.idle, .accumulating), (.idle, .fault), (.accumulating, .accumulating),
          (.accumulating, .finalized), (.accumulating, .fault), (.finalized, .finalized),
          (.finalized, .fault), (Phase.fault, Phase.fault)]

/-- 60_exceptions.md R295: in FAULT every word but 0x0100_0000 has no effect, so FAULT_CODE keeps its code; register
and IN writes act as usual. -/
def Obligations.FaultIgnoresEveryWordButSoftReset : Prop :=
  ∀ (s : State) (w : Word), s.phase = .fault →
    (w ≠ 0x01000000#32 → runCommand w s = .next s) ∧
    ∀ a : Word, a ≠ 0x008#32 →
      memWrite s a w = .next (plainWrite s a w) ∧ (plainWrite s a w).phase = .fault ∧
        (plainWrite s a w).faultCode = s.faultCode

/-- 30_encoding.md R118: a command issued in a state the table does not allow raises BAD_STATE and does nothing else;
in FAULT every command but SOFT_RESET is ignored; SOFT_RESET is allowed everywhere; in an allowed state no command
raises BAD_STATE. -/
def Obligations.BadStateExactlyWhereTheTableForbids : Prop :=
  ∀ (i : Instr) (s : State),
    let forbidden :=
      [(Instr.configure, Phase.accumulating), (.configure, .finalized), (.addFrame, .idle), (.addFrame, .finalized),
        (.finish, .idle), (.finish, .finalized), (.diffRect, .idle), (.lzwEncode, .accumulating),
        (.lzwEncode, .finalized)]
    ((i, s.phase) ∈ forbidden → exec i s = .next { s with phase := .fault, faultCode := .badState }) ∧
    (s.phase = .fault → i ≠ .softReset → exec i s = .next s) ∧
    (i = .softReset → exec i s = .next (doReset s)) ∧
    ((i, s.phase) ∉ forbidden → s.phase ≠ .fault → s.faultCode = .noFault →
      ∀ t, exec i s = .next t → t.faultCode ≠ .badState)

/-- 60_exceptions.md R292, R293: a fault sets STATE and FAULT_CODE. One found by decoding or by an operand check
changes nothing else; one raised while the command runs (SYMBOL_RANGE, OUT_OVERFLOW) also leaves OUT and OUTLEN
UNSPECIFIED, and CONFIGURE's has latched the session. -/
def Obligations.FaultChangesOnlyStatusAndOut : Prop :=
  ∀ (i : Instr) (s t : State), s.Inv → s.phase ≠ .fault → exec i s = .next t → t.phase = .fault →
    t.faultCode ≠ .noFault ∧
    (t.faultCode ≠ .symbolRange → t.faultCode ≠ .outOverflow →
      t = { s with phase := .fault, faultCode := t.faultCode }) ∧
    t = { s with phase := .fault, faultCode := t.faultCode, out := t.out, session := t.session } ∧
    (i ≠ .configure → t.session = s.session)

/-- 10_state.md R38, R57 ("No command writes IN"), 30_encoding.md R114: no command but SOFT_RESET writes ARG0, ARG1,
a configuration register, the palette, or IN; none touches the host's side. -/
def Obligations.CommandsNeverWriteTheirOperands : Prop :=
  ∀ (i : Instr) (s t : State), i ≠ .softReset → exec i s = .next t →
    t.arg0 = s.arg0 ∧ t.arg1 = s.arg1 ∧ t.width = s.width ∧ t.height = s.height ∧ t.scale = s.scale ∧
    t.psize = s.psize ∧ t.quantum = s.quantum ∧ t.palette = s.palette ∧ (∀ j, t.inWord j = s.inWord j) ∧
    t.dev = s.dev ∧ t.script = s.script ∧ t.readData = s.readData

/-- 70_reset_and_hazards.md R333: a byte of OUT or OUTLEN changes only in a step that resets, or that issues CONFIGURE,
FINISH or LZW_ENCODE outside FINALIZED and FAULT. R333 says so of OUT[0..OUTLEN); for the bytes at or above OUTLEN it is
the model's choice that nothing else draws them anew (log entry 6). -/
def Obligations.OutChangesOnlyThroughItsWriters : Prop :=
  ∀ s t : State, step s = .next t → s.resetsNext = false →
    ((∃ k, t.outByte k ≠ s.outByte k) ∨ readReg t .outlen ≠ readReg s .outlen) →
    (s.phase = .idle ∨ s.phase = .accumulating) ∧
    ∃ es, s.script = .write 0x008#32 4 0x10000000#32 :: es ∨ s.script = .write 0x008#32 4 0x12000000#32 :: es ∨
      s.script = .write 0x008#32 4 0x20000000#32 :: es

/-! ## NOP and the hash unit -/

/-- 43_system.md R270: NOP, word 0x0000_0000, changes nothing, in any state. -/
def Obligations.NopChangesNothing : Prop :=
  ∀ s : State, exec .nop s = .next s ∧ runCommand 0x00000000#32 s = exec .nop s

/-- 42_hasher.md R260: HASH_INIT, word 0x3000_0000, sets HASH to 487 and changes nothing else. -/
def Obligations.HashInitSetsTheSeed : Prop :=
  ∀ s : State, s.phase ≠ .fault →
    exec .hashInit s = .next { s with hash := 487 } ∧ runCommand 0x30000000#32 s = exec .hashInit s

/-- 42_hasher.md R261, R252: HASH_EXTEND, word 0x3100_0000, sets HASH to (HASH * 31 + ARG0) mod 2^32 and changes
nothing else. -/
def Obligations.HashExtendMultipliesAndAdds : Prop :=
  ∀ s : State, s.phase ≠ .fault →
    exec .hashExtend s =
      .next { s with hash := BitVec.ofNat 32 ((s.hash.toNat * 31 + s.arg0.toNat) % 2 ^ 32) } ∧
    runCommand 0x31000000#32 s = exec .hashExtend s

/-- 42_hasher.md R262: HASH_SEQ folds IN[0], ..., IN[n-1] into HASH; n > IN_WORDS raises IN_RANGE. -/
def Obligations.HashSeqFoldsTheInWords : Prop :=
  ∀ s : State, s.phase ≠ .fault →
    (s.dev.inWords < s.arg0.toNat →
      exec .hashSeq s = .next { s with phase := .fault, faultCode := .inRange }) ∧
    (s.arg0.toNat ≤ s.dev.inWords →
      exec .hashSeq s = .next { s with
        hash := BitVec.ofNat 32
          ((List.range s.arg0.toNat).foldl (fun h i => (h * 31 + (s.inWord i).toNat) % 2 ^ 32) s.hash.toNat) })

/-- 42_hasher.md R262 ("The result equals n HASH_EXTEND commands with ARG0 = IN[0], ..., IN[n-1]"), R255. -/
def Obligations.HashSeqEqualsRepeatedHashExtend : Prop :=
  ∀ (s : State) (u : Nat → State), s.phase ≠ .fault → s.arg0.toNat ≤ s.dev.inWords → u 0 = s →
    (∀ k, k < s.arg0.toNat → exec .hashExtend { u k with arg0 := s.inWord k } = .next (u (k + 1))) →
    exec .hashSeq s = .next { u s.arg0.toNat with arg0 := s.arg0 }

/-- 42_hasher.md R256: two distinct sequences of symbols below 31 and of length at most 4 have distinct hashes. -/
def Obligations.ShortSequencesHashApart : Prop :=
  ∀ u v : List Nat, (∀ x ∈ u, x < 31) → (∀ x ∈ v, x < 31) → u.length ≤ 4 → v.length ≤ 4 →
    hashFrom hashInitial u = hashFrom hashInitial v → u = v

/-- 42_hasher.md R263: a hash command changes only HASH, or, when it faults, STATUS (the fault is not in the
rule's words: log entry 19). -/
def Obligations.HashCommandsLeaveTheContainerAlone : Prop :=
  ∀ (i : Instr) (s t : State), i = .hashInit ∨ i = .hashExtend ∨ i = .hashSeq → exec i s = .next t →
    (t = { s with hash := t.hash } ∨ t = { s with phase := .fault, faultCode := .inRange }) ∧
    t.session = s.session ∧ t.frames = s.frames ∧ readReg t .outlen = readReg s .outlen ∧
    ∀ k, t.outByte k = s.outByte k

/-! ## The compressor -/

/-- 41_lzw.md R226: a compressor run over palette symbols never faults, under either DICT_KEY. -/
def Obligations.CompressorAcceptsPaletteSymbols : Prop :=
  ∀ (d : Params) (p : PaletteSize) (sym : List Nat), sym ≠ [] → (∀ x ∈ sym, x < p.toNat) →
    ∃ codes, lzwCodes d p sym = .ok codes

/-- 41_lzw.md R217 (b): under EXACT, any symbol outside the palette raises SYMBOL_RANGE. -/
def Obligations.ExactKeysFaultOnForeignSymbols : Prop :=
  ∀ (d : Params) (p : PaletteSize) (sym : List Nat), d.dictKey = .exactSeq → (∃ x ∈ sym, p.toNat ≤ x) →
    lzwCodes d p sym = .error .symbolRange

/-- 41_lzw.md R221, R222: every code is emitted at a width from init + 1 to 12; and, when the symbols are palette
symbols or the keys are exact, it fits its width. (With 32-bit keys and symbols outside the palette the rule's own
derivation does not hold: a key may extend to itself; log entry 19.) -/
def Obligations.EmittedCodesFitTheirWidths : Prop :=
  ∀ (d : Params) (p : PaletteSize) (sym : List Nat) (codes : List Code), lzwCodes d p sym = .ok codes →
    (∀ c ∈ codes,
      (match p with | .four => 3 | .eight => 4 | .sixteen => 5) ≤ c.width ∧ c.width ≤ 12) ∧
    ((d.dictKey = .exactSeq ∨ ∀ x ∈ sym, x < p.toNat) → ∀ c ∈ codes, c.value < 2 ^ c.width)

/-- 41_lzw.md R223, R214: the stream begins with the code size, the codes with the clear code; they end with a final
code and EOI, at the same width when LZW_FINAL_GROWTH is false. -/
def Obligations.StreamBeginsWithClearAndEndsWithEoi : Prop :=
  ∀ (d : Params) (p : PaletteSize) (sym : List Nat) (codes : List Code), lzwCodes d p sym = .ok codes →
    let init := match p with | .four => 2 | .eight => 3 | .sixteen => 4
    codes.head? = some ⟨p.toNat, init + 1⟩ ∧
    (∃ front v w w', codes = front ++ [⟨v, w⟩, ⟨p.toNat + 1, w'⟩] ∧ front ≠ [] ∧
      (d.finalGrowth = false → w' = w) ∧ (w' = w ∨ w' = w + 1)) ∧
    ∃ bytes, lzwStream d p sym = .ok (BitVec.ofNat 8 init :: bytes)

/-- 41_lzw.md R212, R216: bit k of the packed string is bit k of the codes' bits, each code low bit first; the data
are ceil(T/8) bytes and the unused high bits of the last one are 0. -/
def Obligations.PackedBitsAreTheCodesLowBitFirst : Prop :=
  ∀ codes : List Code,
    let bits := codes.flatMap fun c => (List.range c.width).map c.value.testBit
    (pack codes).length = ((codes.map Code.width).sum + 7) / 8 ∧
    ∀ k, ((pack codes).getD (k / 8) 0).getLsbD (k % 8) = bits.getD k false

/-- 41_lzw.md R218, R219: SUBBLOCKS is the 255-byte chunks, each behind its length, then the terminator unless the
data ends on a block boundary and SUBBLOCK_TERM_ALWAYS is false. -/
def Obligations.SubBlocksAreLengthPrefixedChunks : Prop :=
  ∀ (always : Bool) (data : List Byte),
    subBlocks always data =
      ((List.range ((data.length + 254) / 255)).flatMap fun k =>
        BitVec.ofNat 8 (min 255 (data.length - 255 * k)) :: (data.drop (255 * k)).take 255)
      ++ (if data.length % 255 = 0 ∧ always = false then [] else [0x00])

/-- 41_lzw.md R225, R220: the length of a stream from the total width T of its codes. -/
def Obligations.StreamLengthFollowsFromTheCodeWidths : Prop :=
  ∀ (d : Params) (p : PaletteSize) (sym : List Nat) (codes : List Code) (bytes : List Byte),
    lzwCodes d p sym = .ok codes → lzwStream d p sym = .ok bytes →
    let total := (codes.map Code.width).sum
    let m := (total + 7) / 8
    3 ≤ codes.length ∧ (∀ c ∈ codes, 3 ≤ c.width) ∧ 9 ≤ total ∧ 2 ≤ m ∧
      bytes.length = 1 + m + (m + 254) / 255 + (if m % 255 = 0 ∧ d.termAlways = false then 0 else 1)

/-- 41_lzw.md R227: the two kinds of dictionary key give the same codes when no two of the sequences that can be
looked up or seeded (the non-empty contiguous parts of the input and the single palette symbols) have equal hashes.
The seeded sequences are added to the rule's words: a run that looks up none of them can still hit one (DEDUCED, log
entry 19). -/
def Obligations.HashKeysAgreeWithExactKeys : Prop :=
  ∀ (d : Params) (p : PaletteSize) (sym : List Nat),
    (∀ u v : List Nat, u ≠ [] → v ≠ [] →
      (u <:+: sym ∨ ∃ i, i < p.toNat ∧ u = [i]) → (v <:+: sym ∨ ∃ i, i < p.toNat ∧ v = [i]) →
      hashFrom hashInitial u = hashFrom hashInitial v → u = v) →
    lzwCodes { d with dictKey := .hash32 } p sym = lzwCodes { d with dictKey := .exactSeq } p sym

/-- 41_lzw.md R224: LZW_FINAL_GROWTH changes the packed data only by one zero byte at the end, and only when the bit
count of the default setting is a multiple of 8. -/
def Obligations.FinalGrowthAddsAtMostOneZeroByte : Prop :=
  ∀ (d : Params) (p : PaletteSize) (sym : List Nat) (codes : List Code),
    lzwCodes { d with finalGrowth := false } p sym = .ok codes →
    ∃ codes', lzwCodes { d with finalGrowth := true } p sym = .ok codes' ∧
      codes'.map Code.value = codes.map Code.value ∧
      (pack codes' = pack codes ∨
        (codes.map Code.width).sum % 8 = 0 ∧ pack codes' = pack codes ++ [0x00])

/-- The standard decoder recovers the input from the codes of a run with exact keys (90_conflicts.md C5 "every symbol
is recovered"; 95_test_vectors.md V10, V22, V24). The decoder is the family's (PRESUMED, log entry 21). -/
def Obligations.ExactCodesDecodeToTheInput : Prop :=
  ∀ (d : Params) (p : PaletteSize) (sym : List Nat) (codes : List Code), d.dictKey = .exactSeq →
    lzwCodes d p sym = .ok codes → decodedSymbols p codes = some sym

/-- 41_lzw.md R230: LZW_ENCODE replaces the whole of OUT by the stream of IN[0..ARG0-1], stays in IDLE, and changes
nothing else. -/
def Obligations.LzwEncodeReplacesOutByTheStream : Prop :=
  ∀ (s : State) (p : PaletteSize) (bytes : List Byte), s.dev.wf = true → s.phase = .idle →
    s.psize.toNat = p.toNat → s.arg0.toNat ≠ 0 → s.arg0.toNat ≤ s.dev.inWords →
    lzwStream s.dev p ((List.range s.arg0.toNat).map fun i => (s.inWord i).toNat) = .ok bytes →
    bytes.length ≤ s.dev.outBytes →
    ∃ t, exec .lzwEncode s = .next t ∧ t = { s with out := t.out } ∧
      (readReg t .outlen).toNat = bytes.length ∧ t.outBytes = bytes

/-- 41_lzw.md R230, 60_exceptions.md R290: LZW_ENCODE's operand checks in their order, then its running faults, of
which the stream's SYMBOL_RANGE comes before OUT_OVERFLOW. -/
def Obligations.LzwEncodeFaultsInOrder : Prop :=
  ∀ s : State, s.phase = .idle →
    (s.psize.toNat ∉ [4, 8, 16] →
      exec .lzwEncode s = .next { s with phase := .fault, faultCode := .badConfig }) ∧
    (s.psize.toNat ∈ [4, 8, 16] → s.arg0.toNat = 0 →
      exec .lzwEncode s = .next { s with phase := .fault, faultCode := .emptyInput }) ∧
    (s.psize.toNat ∈ [4, 8, 16] → s.dev.inWords < s.arg0.toNat →
      exec .lzwEncode s = .next { s with phase := .fault, faultCode := .inRange }) ∧
    ∀ p : PaletteSize, s.psize.toNat = p.toNat → s.arg0.toNat ≠ 0 → s.arg0.toNat ≤ s.dev.inWords →
      (lzwCodes s.dev p ((List.range s.arg0.toNat).map fun i => (s.inWord i).toNat) = .error .symbolRange →
        ∃ b, exec .lzwEncode s = .next { s with phase := .fault, faultCode := .symbolRange, out := b }) ∧
      (∀ bytes, lzwStream s.dev p ((List.range s.arg0.toNat).map fun i => (s.inWord i).toNat) = .ok bytes →
        s.dev.outBytes < bytes.length → s.dev.wf = true →
        ∃ b, exec .lzwEncode s = .next { s with phase := .fault, faultCode := .outOverflow, out := b })

/-- 41_lzw.md R226, R230, R225: in IDLE, over n palette symbols and with room for 4n + 7 bytes (at most 2n + 2 codes
of at most 12 bits, 70_reset_and_hazards.md R336), LZW_ENCODE completes with the stream in OUT. -/
def Obligations.LzwEncodeCompletesOnPaletteSymbols : Prop :=
  ∀ (s : State) (p : PaletteSize), s.dev.wf = true → s.phase = .idle → s.psize.toNat = p.toNat →
    s.arg0.toNat ≠ 0 → s.arg0.toNat ≤ s.dev.inWords →
    (∀ i, i < s.arg0.toNat → (s.inWord i).toNat < p.toNat) → 4 * s.arg0.toNat + 7 ≤ s.dev.outBytes →
    ∃ t, exec .lzwEncode s = .next t ∧ t = { s with out := t.out } ∧
      lzwStream s.dev p ((List.range s.arg0.toNat).map fun i => (s.inWord i).toNat) = .ok t.outBytes

/-! ## The container -/

/-- 40_container.md R141, R140, R142: CONFIGURE latches the session, empties the frame store, and leaves OUT holding
the 32 + 3P bytes of the GIF header; it changes nothing else. -/
def Obligations.ConfigureLatchesAndWritesTheHeader : Prop :=
  ∀ (s : State) (p : PaletteSize), s.dev.wf = true → s.phase = .idle → s.psize.toNat = p.toNat →
    s.width ≠ 0 → s.height ≠ 0 → s.scale ≠ 0 → s.width.toNat * s.height.toNat ≤ s.dev.inWords →
    (s.palette.toList.take p.toNat).Nodup → 32 + 3 * p.toNat ≤ s.dev.outBytes →
    ∃ t, exec .configure s = .next t ∧
      t = { s with
        phase := .accumulating, frames := [], out := t.out,
        session := ⟨s.width, s.height, s.scale, p, s.quantum, s.palette.toList.take p.toNat⟩ } ∧
      (readReg t .outlen).toNat = 32 + 3 * p.toNat ∧ readReg t .nframes = 0 ∧
      t.outBytes =
        ([0x47, 0x49, 0x46, 0x38, 0x39, 0x61] : List Byte)
        ++ [BitVec.ofNat 8 (s.width.toNat * s.scale.toNat), BitVec.ofNat 8 (s.width.toNat * s.scale.toNat / 256),
            BitVec.ofNat 8 (s.height.toNat * s.scale.toNat), BitVec.ofNat 8 (s.height.toNat * s.scale.toNat / 256),
            (match p with | .four => 0x99 | .eight => 0x9A | .sixteen => 0x9B), 0x00, 0x00]
        ++ ((s.palette.toList.take p.toNat).flatMap fun c =>
            [c.extractLsb' 0 8, c.extractLsb' 8 8, c.extractLsb' 16 8])
        ++ [0x21, 0xFF, 0x0B, 0x4E, 0x45, 0x54, 0x53, 0x43, 0x41, 0x50, 0x45, 0x32, 0x2E, 0x30, 0x03, 0x01, 0x00,
            0x00, 0x00]

/-- 40_container.md R141, 60_exceptions.md R290: CONFIGURE's checks, and OUT_OVERFLOW when the header does not fit. -/
def Obligations.ConfigureRefusesBadConfigurations : Prop :=
  ∀ s : State, s.phase = .idle →
    (s.psize.toNat ∉ [4, 8, 16] ∨ s.width = 0 ∨ s.height = 0 ∨ s.scale = 0 ∨
        s.dev.inWords < s.width.toNat * s.height.toNat ∨
        (∃ i j, i < j ∧ j < s.psize.toNat ∧ j < 16 ∧ s.palette.toList[i]? = s.palette.toList[j]?) →
      exec .configure s = .next { s with phase := .fault, faultCode := .badConfig }) ∧
    (s.psize.toNat ∈ [4, 8, 16] → s.width ≠ 0 → s.height ≠ 0 → s.scale ≠ 0 →
      s.width.toNat * s.height.toNat ≤ s.dev.inWords → (s.palette.toList.take s.psize.toNat).Nodup →
      s.dev.wf = true → s.dev.outBytes < 32 + 3 * s.psize.toNat →
      ∃ t, exec .configure s = .next t ∧ t.phase = .fault ∧ t.faultCode = .outOverflow)

/-- 40_container.md R150, 60_exceptions.md R290: ADD_FRAME appends the looked-up indices of IN[0..n-1] to the frame
store and changes nothing else; a wrong count raises DIMENSION, and only then a full store FRAME_STORE_FULL. -/
def Obligations.AddFrameStoresTheLookedUpPixels : Prop :=
  ∀ s : State, s.phase = .accumulating →
    (s.arg0.toNat = s.session.width.toNat * s.session.height.toNat → s.frames.length < s.dev.maxFrames →
      exec .addFrame s = .next { s with
        frames := s.frames ++
          [(List.range s.arg0.toNat).map fun i => lookup s.session.palette (s.inWord i)] }) ∧
    (s.arg0.toNat ≠ s.session.width.toNat * s.session.height.toNat →
      exec .addFrame s = .next { s with phase := .fault, faultCode := .dimension }) ∧
    (s.arg0.toNat = s.session.width.toNat * s.session.height.toNat → s.frames.length = s.dev.maxFrames →
      exec .addFrame s = .next { s with phase := .fault, faultCode := .frameStoreFull })

/-- 40_container.md R151, 10_state.md R54: LOOKUP(c) is the index of the entry equal to c, or 8 if there is none. -/
def Obligations.LookupFindsTheEntryOrTheSentinel : Prop :=
  ∀ (palette : List Word) (c : Word), palette.Nodup →
    (∀ j, palette[j]? = some c → lookup palette c = j) ∧ (c ∉ palette → lookup palette c = 8)

/-- 40_container.md R180, R165: DIFF_RECT reports the minimal rectangle, in native pixels, around the pixels at which
the two frames differ: it holds all of them and each of its edges holds one; or RECT_EMPTY when there is none. In states that no run reaches a frame may be shorter than
W*H: that a missing pixel then reads 0 is the model's choice (log entry 17). -/
def Obligations.DiffRectReportsTheMinimalRectangle : Prop :=
  ∀ s : State, s.phase = .accumulating ∨ s.phase = .finalized →
    s.arg0.toNat < s.frames.length → s.arg1.toNat < s.frames.length →
    let width := s.session.width.toNat
    let differ : Nat → Nat → Prop := fun x y => x < width ∧ y < s.session.height.toNat ∧
      (s.frames.getD s.arg0.toNat []).getD (y * width + x) 0 ≠
        (s.frames.getD s.arg1.toNat []).getD (y * width + x) 0
    ∃ t, exec .diffRect s = .next t ∧
      t = { s with rectEmpty := t.rectEmpty, rectXY := t.rectXY, rectWH := t.rectWH } ∧
      ((∀ x y, ¬ differ x y) → t.rectEmpty = true ∧ t.rectXY = 0 ∧ t.rectWH = 0) ∧
      ((∃ x y, differ x y) →
        let x0 := (t.rectXY.extractLsb' 0 16).toNat
        let y0 := (t.rectXY.extractLsb' 16 16).toNat
        let w := (t.rectWH.extractLsb' 0 16).toNat
        let h := (t.rectWH.extractLsb' 16 16).toNat
        t.rectEmpty = false ∧ 1 ≤ w ∧ 1 ≤ h ∧
        (∀ x y, differ x y → x0 ≤ x ∧ x < x0 + w ∧ y0 ≤ y ∧ y < y0 + h) ∧
        (∃ y, differ x0 y) ∧ (∃ y, differ (x0 + w - 1) y) ∧ (∃ x, differ x y0) ∧ ∃ x, differ x (y0 + h - 1))

/-- 40_container.md R180 (exceptions and corner cases): an index at or above NFRAMES raises FRAME_INDEX; two equal
indices report EMPTY; swapping the indices gives the same report. -/
def Obligations.DiffRectIndexFaultAndSymmetry : Prop :=
  ∀ s : State, s.phase = .accumulating ∨ s.phase = .finalized →
    (s.frames.length ≤ s.arg0.toNat ∨ s.frames.length ≤ s.arg1.toNat →
      exec .diffRect s = .next { s with phase := .fault, faultCode := .frameIndex }) ∧
    (s.arg0 = s.arg1 → s.arg0.toNat < s.frames.length →
      exec .diffRect s = .next { s with rectEmpty := true, rectXY := 0, rectWH := 0 }) ∧
    ∀ t, exec .diffRect s = .next t →
      exec .diffRect { s with arg0 := s.arg1, arg1 := s.arg0 } = .next { t with arg0 := s.arg1, arg1 := s.arg0 }

/-- 40_container.md R162, R167: the payload is the scaled rectangle, row by row: w*S columns, h*S rows, each pixel the
native pixel at the scaled position divided by S. Where the frame is too short to have that pixel, which no run reaches,
that it reads 0 is the model's choice (log entry 17). -/
def Obligations.ExtractReadsTheScaledRectangle : Prop :=
  ∀ (f : List Nat) (x y w h width sc : Nat), 1 ≤ w → 1 ≤ sc →
    (extract f ⟨x, y, w, h⟩ width sc).length = w * h * sc ^ 2 ∧
    ∀ k, k < w * h * sc ^ 2 →
      (extract f ⟨x, y, w, h⟩ width sc).getD k 0 =
        f.getD ((y * sc + k / (w * sc)) / sc * width + (x * sc + k % (w * sc)) / sc) 0

/-- 40_container.md R160, R163, R168 to R173: FINISH appends, for the last frame of each run of equal consecutive
frames, its Graphic Control Extension (with one quantum of delay for each frame of the run), its Image Descriptor and
its compressed payload, then the trailer; it sets FINALIZED and changes nothing else. -/
def Obligations.FinishAppendsOneTriplePerRun : Prop :=
  ∀ (s : State) (body : List Byte), s.Inv → s.phase = .accumulating →
    s.triples none s.emitted = .ok body → (readReg s .outlen).toNat + body.length + 1 ≤ s.dev.outBytes →
    ∃ t, exec .finish s = .next t ∧ t = { s with phase := .finalized, out := t.out } ∧
      (readReg t .outlen).toNat = (readReg s .outlen).toNat + body.length + 1 ∧
      t.outBytes = s.outBytes ++ body ++ [0x3B]

/-- 40_container.md R166: the branch for an empty difference is never taken: an emitted frame differs from the frame
emitted before it. -/
def Obligations.EmittedFramesDifferFromTheLastEmitted : Prop :=
  ∀ (s : State) (e f : Nat), s.Inv → s.phase = .accumulating → e ∈ s.emitted → f ∈ s.emitted → e < f →
    (∀ g, e < g → g < f → g ∉ s.emitted) →
    bbox (s.frame e) (s.frame f) s.session.width.toNat s.session.height.toNat ≠ none

/-- 40_container.md R174 (e), R175 (b): equal frames give one full-frame emission whose delay is their number times
the quantum, mod 2^16. -/
def Obligations.EqualFramesAreEmittedOnce : Prop :=
  ∀ (s : State) (f : List Nat) (n : Nat) (bytes : List Byte), s.Inv → s.phase = .accumulating →
    s.frames = List.replicate (n + 1) f →
    let width := s.session.width.toNat * s.session.scale.toNat
    let height := s.session.height.toNat * s.session.scale.toNat
    let delay := (n + 1) * s.session.quantum.toNat
    lzwStream s.dev s.session.psize
        (extract f ⟨0, 0, s.session.width.toNat, s.session.height.toNat⟩ s.session.width.toNat
          s.session.scale.toNat) = .ok bytes →
    (readReg s .outlen).toNat + bytes.length + 19 ≤ s.dev.outBytes →
    ∃ t, exec .finish s = .next t ∧ t = { s with phase := .finalized, out := t.out } ∧
      t.outBytes = s.outBytes
        ++ [0x21, 0xF9, 0x04, 0x04, BitVec.ofNat 8 delay, BitVec.ofNat 8 (delay / 256), 0x00, 0x00]
        ++ [0x2C, 0x00, 0x00, 0x00, 0x00, BitVec.ofNat 8 width, BitVec.ofNat 8 (width / 256),
            BitVec.ofNat 8 height, BitVec.ofNat 8 (height / 256), 0x00]
        ++ bytes ++ [0x3B]

/-- 40_container.md R160, R173, R174 (f): with every stored index below P and room for the largest stream
(70_reset_and_hazards.md R336), FINISH completes: the old output stays as the beginning of the new, which ends with the
trailer; the frames stay as they were. -/
def Obligations.FinishCompletesOnPaletteFrames : Prop :=
  ∀ s : State, s.Inv → s.phase = .accumulating → (∀ f ∈ s.frames, ∀ x ∈ f, x < s.session.psize.toNat) →
    (readReg s .outlen).toNat
        + s.frames.length * (4 * (s.session.width.toNat * s.session.height.toNat * s.session.scale.toNat ^ 2) + 25)
        + 1 ≤ s.dev.outBytes →
    ∃ t, exec .finish s = .next t ∧ t = { s with phase := .finalized, out := t.out } ∧
      ∃ body, s.triples none s.emitted = .ok body ∧ t.outBytes = s.outBytes ++ body ++ [0x3B]

/-- 40_container.md R176: FINISH ends in FINALIZED, or faults with OUT_OVERFLOW or, never with P = 16, SYMBOL_RANGE; a
fault leaves everything but STATUS, OUT and OUTLEN. -/
def Obligations.FinishFaultsOnlyAsTheRuleSays : Prop :=
  ∀ s t : State, s.Inv → s.phase = .accumulating → exec .finish s = .next t →
    t = { s with phase := t.phase, faultCode := t.faultCode, out := t.out } ∧
    (t.phase = .finalized ∧ t.faultCode = .noFault ∨
      t.phase = .fault ∧ (t.faultCode = .outOverflow ∨
        t.faultCode = .symbolRange ∧ s.session.psize ≠ .sixteen ∧ ∃ f ∈ s.frames, 8 ∈ f))

/-- 70_reset_and_hazards.md R331: host writes to the configuration registers after CONFIGURE change nothing that
ADD_FRAME, FINISH and DIFF_RECT do. -/
def Obligations.ConfigurationWritesDoNotReachTheSession : Prop :=
  ∀ (i : Instr) (r : Reg) (s t : State) (v : Word), i = .addFrame ∨ i = .finish ∨ i = .diffRect →
    r = .width ∨ r = .height ∨ r = .scale ∨ r = .psize ∨ r = .quantum ∨ (∃ k, r = .pal k) →
    exec i s = .next t → exec i (writeReg s v r) = .next (writeReg t v r)

/-- 10_state.md R54, 93_implementation_defined.md S5: in IDLE no command and no access depends on the session state:
whatever it is, the host sees the same, until a CONFIGURE replaces it. -/
def Obligations.SessionIsUnobservableInIdle : Prop :=
  ∀ (s : State) (c : Session) (e : HostEvent), s.phase = .idle →
    hostEvent e { s with session := c } = hostEvent e s ∨
    ∃ t, hostEvent e s = .next t ∧ hostEvent e { s with session := c } = .next { t with session := c } ∧
      (t.phase = .idle ∨ t.phase = .fault) ∧ ∀ a, memRead { t with session := c } a = memRead t a

/-! ## The invariant -/

/-- The invariant holds at power-on (10_state.md R36, R55, R56; 70_reset_and_hazards.md R320). It asks of the device
only R8's ranges, which the sizes the model chose meet (log entry 3). -/
def Obligations.InvariantHoldsAtReset : Prop := State.reset.Inv

/-- Every step keeps the invariant: the memories keep their canonical form and their bounds, OUT holds exactly the
bytes below OUTLEN, FAULT_CODE is NONE exactly outside FAULT, and the session and the frames stay as CONFIGURE and
ADD_FRAME checked them (10_state.md R36, R44, R45, R54 to R57). -/
def Obligations.EveryStepKeepsTheInvariant : Prop :=
  ∀ s t : State, s.Inv → step s = .next t → t.Inv
end

