-- ==== Sys2Proof/Laws/Memory.lean ====
section
/-! SUPPORT. The laws of a memory: read after write, the canonical form, and writing at the end. -/

namespace Sys2Proof.Machine

variable {α : Type}

@[simp] theorem Memory.read_nil (k : Nat) : Memory.read ([] : Memory α) k = none := rfl

theorem Memory.read_cons (j : Nat) (v : α) (m : Memory α) (k : Nat) :
    Memory.read ((j, v) :: m) k = if j = k then some v else Memory.read m k := rfl

@[simp] theorem Memory.read_write_self (m : Memory α) (k : Nat) (v : α) :
    Memory.read (Memory.write m k v) k = some v := by
  induction m with
  | nil => simp [Memory.write, Memory.read]
  | cons c m ih =>
    obtain ⟨j, u⟩ := c
    simp only [Memory.write]
    split
    · simp [Memory.read]
    · split
      · simp [Memory.read]
      · rw [Memory.read_cons, if_neg (by omega), ih]

theorem Memory.read_write_ne (m : Memory α) {k j : Nat} (v : α) (h : j ≠ k) :
    Memory.read (Memory.write m k v) j = Memory.read m j := by
  induction m with
  | nil => simp [Memory.write, Memory.read, Ne.symm h]
  | cons c m ih =>
    obtain ⟨i, u⟩ := c
    simp only [Memory.write]
    split
    · rw [Memory.read_cons, if_neg (Ne.symm h)]
    · split
      · subst_vars; simp [Memory.read_cons, Ne.symm h]
      · simp only [Memory.read_cons, ih]

/-- Every index of a written memory is the written one or was there before. -/
theorem Memory.mem_write {m : Memory α} {k : Nat} {v : α} {c : Nat × α} (h : c ∈ Memory.write m k v) :
    c = (k, v) ∨ c ∈ m := by
  induction m with
  | nil => simpa [Memory.write] using h
  | cons a m ih =>
    obtain ⟨j, u⟩ := a
    simp only [Memory.write] at h
    split at h
    · simpa using h
    · split at h
      · rcases List.mem_cons.mp h with h | h
        · exact .inl h
        · exact .inr (List.mem_cons_of_mem _ h)
      · rcases List.mem_cons.mp h with h | h
        · exact .inr (by simp [h])
        · rcases ih h with h | h
          · exact .inl h
          · exact .inr (List.mem_cons_of_mem _ h)

/-- A write keeps the canonical form. -/
theorem Memory.wf_write {m : Memory α} (h : Memory.wf m) (k : Nat) (v : α) : Memory.wf (Memory.write m k v) := by
  induction m with
  | nil => simp [Memory.wf, Memory.write]
  | cons a m ih =>
    obtain ⟨j, u⟩ := a
    simp only [Memory.wf, List.map_cons, List.pairwise_cons] at h
    simp only [Memory.write]
    split
    · rename_i hk
      simp only [Memory.wf, List.map_cons, List.pairwise_cons, List.mem_cons]
      refine ⟨?_, h⟩
      rintro x (rfl | hx)
      · exact hk
      · exact lt_trans hk (h.1 x hx)
    · split
      · subst_vars
        simpa [Memory.wf] using h
      · rename_i h1 h2
        simp only [Memory.wf, List.map_cons, List.pairwise_cons]
        refine ⟨?_, ih h.2⟩
        intro x hx
        obtain ⟨c, hc, rfl⟩ := List.mem_map.mp hx
        rcases Memory.mem_write hc with rfl | hc
        · simp only; omega
        · exact h.1 _ (List.mem_map_of_mem hc)

/-- Writing above every listed index appends. -/
theorem Memory.write_end {m : Memory α} {k : Nat} (v : α) (h : ∀ c ∈ m, c.1 < k) :
    Memory.write m k v = m ++ [(k, v)] := by
  induction m with
  | nil => rfl
  | cons a m ih =>
    obtain ⟨j, u⟩ := a
    have hj : j < k := h (j, u) (by simp)
    simp only [Memory.write, if_neg (show ¬ k < j by omega), if_neg (show ¬ k = j by omega), List.cons_append]
    rw [ih fun c hc => h c (by simp [hc])]

/-- What a listed index reads as in the canonical form. -/
theorem Memory.read_of_mem {m : Memory α} (h : Memory.wf m) {k : Nat} {v : α} (hm : (k, v) ∈ m) :
    Memory.read m k = some v := by
  induction m with
  | nil => simp at hm
  | cons a m ih =>
    obtain ⟨j, u⟩ := a
    simp only [Memory.wf, List.map_cons, List.pairwise_cons] at h
    rw [Memory.read_cons]
    rcases List.mem_cons.mp hm with hm | hm
    · cases hm; simp
    · rw [if_neg, ih h.2 hm]
      have := h.1 k (List.mem_map.mpr ⟨_, hm, rfl⟩)
      omega

end Sys2Proof.Machine
end

