-- ==== Sys2Proof/Laws/State.lean ====
section
/-! SUPPORT. One lemma per field per named update of State, so that no proof unfolds a record update. -/

namespace Sys2Proof.Machine

/-! ### The palette -/

/-- MAX_PALETTE as the number that arithmetic needs (00_scope.md R7). -/
theorem maxPalette_eq : maxPalette = 16 := rfl

@[simp] theorem length_palette (s : State) : s.palette.toList.length = 16 := by simp [maxPalette_eq]

/-! ### setPhase -/

@[simp] theorem setPhase_dev (s : State) (p : Phase) : (s.setPhase p).dev = s.dev := rfl

@[simp] theorem setPhase_phase (s : State) (p : Phase) : (s.setPhase p).phase = p := rfl

@[simp] theorem setPhase_rectEmpty (s : State) (p : Phase) : (s.setPhase p).rectEmpty = s.rectEmpty := rfl

@[simp] theorem setPhase_faultCode (s : State) (p : Phase) : (s.setPhase p).faultCode = s.faultCode := rfl

@[simp] theorem setPhase_arg0 (s : State) (p : Phase) : (s.setPhase p).arg0 = s.arg0 := rfl

@[simp] theorem setPhase_arg1 (s : State) (p : Phase) : (s.setPhase p).arg1 = s.arg1 := rfl

@[simp] theorem setPhase_width (s : State) (p : Phase) : (s.setPhase p).width = s.width := rfl

@[simp] theorem setPhase_height (s : State) (p : Phase) : (s.setPhase p).height = s.height := rfl

@[simp] theorem setPhase_scale (s : State) (p : Phase) : (s.setPhase p).scale = s.scale := rfl

@[simp] theorem setPhase_psize (s : State) (p : Phase) : (s.setPhase p).psize = s.psize := rfl

@[simp] theorem setPhase_quantum (s : State) (p : Phase) : (s.setPhase p).quantum = s.quantum := rfl

@[simp] theorem setPhase_hash (s : State) (p : Phase) : (s.setPhase p).hash = s.hash := rfl

@[simp] theorem setPhase_rectXY (s : State) (p : Phase) : (s.setPhase p).rectXY = s.rectXY := rfl

@[simp] theorem setPhase_rectWH (s : State) (p : Phase) : (s.setPhase p).rectWH = s.rectWH := rfl

@[simp] theorem setPhase_palette (s : State) (p : Phase) : (s.setPhase p).palette = s.palette := rfl

@[simp] theorem setPhase_session (s : State) (p : Phase) : (s.setPhase p).session = s.session := rfl

@[simp] theorem setPhase_frames (s : State) (p : Phase) : (s.setPhase p).frames = s.frames := rfl

@[simp] theorem setPhase_out (s : State) (p : Phase) : (s.setPhase p).out = s.out := rfl

@[simp] theorem setPhase_inMem (s : State) (p : Phase) : (s.setPhase p).inMem = s.inMem := rfl

@[simp] theorem setPhase_inEpoch (s : State) (p : Phase) : (s.setPhase p).inEpoch = s.inEpoch := rfl

@[simp] theorem setPhase_script (s : State) (p : Phase) : (s.setPhase p).script = s.script := rfl

@[simp] theorem setPhase_readData (s : State) (p : Phase) : (s.setPhase p).readData = s.readData := rfl

/-! ### setOut -/

@[simp] theorem setOut_dev (s : State) (b : OutBuf) : (s.setOut b).dev = s.dev := rfl

@[simp] theorem setOut_phase (s : State) (b : OutBuf) : (s.setOut b).phase = s.phase := rfl

@[simp] theorem setOut_rectEmpty (s : State) (b : OutBuf) : (s.setOut b).rectEmpty = s.rectEmpty := rfl

@[simp] theorem setOut_faultCode (s : State) (b : OutBuf) : (s.setOut b).faultCode = s.faultCode := rfl

@[simp] theorem setOut_arg0 (s : State) (b : OutBuf) : (s.setOut b).arg0 = s.arg0 := rfl

@[simp] theorem setOut_arg1 (s : State) (b : OutBuf) : (s.setOut b).arg1 = s.arg1 := rfl

@[simp] theorem setOut_width (s : State) (b : OutBuf) : (s.setOut b).width = s.width := rfl

@[simp] theorem setOut_height (s : State) (b : OutBuf) : (s.setOut b).height = s.height := rfl

@[simp] theorem setOut_scale (s : State) (b : OutBuf) : (s.setOut b).scale = s.scale := rfl

@[simp] theorem setOut_psize (s : State) (b : OutBuf) : (s.setOut b).psize = s.psize := rfl

@[simp] theorem setOut_quantum (s : State) (b : OutBuf) : (s.setOut b).quantum = s.quantum := rfl

@[simp] theorem setOut_hash (s : State) (b : OutBuf) : (s.setOut b).hash = s.hash := rfl

@[simp] theorem setOut_rectXY (s : State) (b : OutBuf) : (s.setOut b).rectXY = s.rectXY := rfl

@[simp] theorem setOut_rectWH (s : State) (b : OutBuf) : (s.setOut b).rectWH = s.rectWH := rfl

@[simp] theorem setOut_palette (s : State) (b : OutBuf) : (s.setOut b).palette = s.palette := rfl

@[simp] theorem setOut_session (s : State) (b : OutBuf) : (s.setOut b).session = s.session := rfl

@[simp] theorem setOut_frames (s : State) (b : OutBuf) : (s.setOut b).frames = s.frames := rfl

@[simp] theorem setOut_out (s : State) (b : OutBuf) : (s.setOut b).out = b := rfl

@[simp] theorem setOut_inMem (s : State) (b : OutBuf) : (s.setOut b).inMem = s.inMem := rfl

@[simp] theorem setOut_inEpoch (s : State) (b : OutBuf) : (s.setOut b).inEpoch = s.inEpoch := rfl

@[simp] theorem setOut_script (s : State) (b : OutBuf) : (s.setOut b).script = s.script := rfl

@[simp] theorem setOut_readData (s : State) (b : OutBuf) : (s.setOut b).readData = s.readData := rfl

/-! ### setHash -/

@[simp] theorem setHash_dev (s : State) (h : Word) : (s.setHash h).dev = s.dev := rfl

@[simp] theorem setHash_phase (s : State) (h : Word) : (s.setHash h).phase = s.phase := rfl

@[simp] theorem setHash_rectEmpty (s : State) (h : Word) : (s.setHash h).rectEmpty = s.rectEmpty := rfl

@[simp] theorem setHash_faultCode (s : State) (h : Word) : (s.setHash h).faultCode = s.faultCode := rfl

@[simp] theorem setHash_arg0 (s : State) (h : Word) : (s.setHash h).arg0 = s.arg0 := rfl

@[simp] theorem setHash_arg1 (s : State) (h : Word) : (s.setHash h).arg1 = s.arg1 := rfl

@[simp] theorem setHash_width (s : State) (h : Word) : (s.setHash h).width = s.width := rfl

@[simp] theorem setHash_height (s : State) (h : Word) : (s.setHash h).height = s.height := rfl

@[simp] theorem setHash_scale (s : State) (h : Word) : (s.setHash h).scale = s.scale := rfl

@[simp] theorem setHash_psize (s : State) (h : Word) : (s.setHash h).psize = s.psize := rfl

@[simp] theorem setHash_quantum (s : State) (h : Word) : (s.setHash h).quantum = s.quantum := rfl

@[simp] theorem setHash_hash (s : State) (h : Word) : (s.setHash h).hash = h := rfl

@[simp] theorem setHash_rectXY (s : State) (h : Word) : (s.setHash h).rectXY = s.rectXY := rfl

@[simp] theorem setHash_rectWH (s : State) (h : Word) : (s.setHash h).rectWH = s.rectWH := rfl

@[simp] theorem setHash_palette (s : State) (h : Word) : (s.setHash h).palette = s.palette := rfl

@[simp] theorem setHash_session (s : State) (h : Word) : (s.setHash h).session = s.session := rfl

@[simp] theorem setHash_frames (s : State) (h : Word) : (s.setHash h).frames = s.frames := rfl

@[simp] theorem setHash_out (s : State) (h : Word) : (s.setHash h).out = s.out := rfl

@[simp] theorem setHash_inMem (s : State) (h : Word) : (s.setHash h).inMem = s.inMem := rfl

@[simp] theorem setHash_inEpoch (s : State) (h : Word) : (s.setHash h).inEpoch = s.inEpoch := rfl

@[simp] theorem setHash_script (s : State) (h : Word) : (s.setHash h).script = s.script := rfl

@[simp] theorem setHash_readData (s : State) (h : Word) : (s.setHash h).readData = s.readData := rfl

/-! ### setRect -/

@[simp] theorem setRect_dev (s : State) (e : Bool) (xy wh : Word) : (s.setRect e xy wh).dev = s.dev := rfl

@[simp] theorem setRect_phase (s : State) (e : Bool) (xy wh : Word) : (s.setRect e xy wh).phase = s.phase := rfl

@[simp] theorem setRect_rectEmpty (s : State) (e : Bool) (xy wh : Word) : (s.setRect e xy wh).rectEmpty = e := rfl

@[simp] theorem setRect_faultCode (s : State) (e : Bool) (xy wh : Word) : (s.setRect e xy wh).faultCode = s.faultCode := rfl

@[simp] theorem setRect_arg0 (s : State) (e : Bool) (xy wh : Word) : (s.setRect e xy wh).arg0 = s.arg0 := rfl

@[simp] theorem setRect_arg1 (s : State) (e : Bool) (xy wh : Word) : (s.setRect e xy wh).arg1 = s.arg1 := rfl

@[simp] theorem setRect_width (s : State) (e : Bool) (xy wh : Word) : (s.setRect e xy wh).width = s.width := rfl

@[simp] theorem setRect_height (s : State) (e : Bool) (xy wh : Word) : (s.setRect e xy wh).height = s.height := rfl

@[simp] theorem setRect_scale (s : State) (e : Bool) (xy wh : Word) : (s.setRect e xy wh).scale = s.scale := rfl

@[simp] theorem setRect_psize (s : State) (e : Bool) (xy wh : Word) : (s.setRect e xy wh).psize = s.psize := rfl

@[simp] theorem setRect_quantum (s : State) (e : Bool) (xy wh : Word) : (s.setRect e xy wh).quantum = s.quantum := rfl

@[simp] theorem setRect_hash (s : State) (e : Bool) (xy wh : Word) : (s.setRect e xy wh).hash = s.hash := rfl

@[simp] theorem setRect_rectXY (s : State) (e : Bool) (xy wh : Word) : (s.setRect e xy wh).rectXY = xy := rfl

@[simp] theorem setRect_rectWH (s : State) (e : Bool) (xy wh : Word) : (s.setRect e xy wh).rectWH = wh := rfl

@[simp] theorem setRect_palette (s : State) (e : Bool) (xy wh : Word) : (s.setRect e xy wh).palette = s.palette := rfl

@[simp] theorem setRect_session (s : State) (e : Bool) (xy wh : Word) : (s.setRect e xy wh).session = s.session := rfl

@[simp] theorem setRect_frames (s : State) (e : Bool) (xy wh : Word) : (s.setRect e xy wh).frames = s.frames := rfl

@[simp] theorem setRect_out (s : State) (e : Bool) (xy wh : Word) : (s.setRect e xy wh).out = s.out := rfl

@[simp] theorem setRect_inMem (s : State) (e : Bool) (xy wh : Word) : (s.setRect e xy wh).inMem = s.inMem := rfl

@[simp] theorem setRect_inEpoch (s : State) (e : Bool) (xy wh : Word) : (s.setRect e xy wh).inEpoch = s.inEpoch := rfl

@[simp] theorem setRect_script (s : State) (e : Bool) (xy wh : Word) : (s.setRect e xy wh).script = s.script := rfl

@[simp] theorem setRect_readData (s : State) (e : Bool) (xy wh : Word) : (s.setRect e xy wh).readData = s.readData := rfl

/-! ### setSession -/

@[simp] theorem setSession_dev (s : State) (c : Session) : (s.setSession c).dev = s.dev := rfl

@[simp] theorem setSession_phase (s : State) (c : Session) : (s.setSession c).phase = s.phase := rfl

@[simp] theorem setSession_rectEmpty (s : State) (c : Session) : (s.setSession c).rectEmpty = s.rectEmpty := rfl

@[simp] theorem setSession_faultCode (s : State) (c : Session) : (s.setSession c).faultCode = s.faultCode := rfl

@[simp] theorem setSession_arg0 (s : State) (c : Session) : (s.setSession c).arg0 = s.arg0 := rfl

@[simp] theorem setSession_arg1 (s : State) (c : Session) : (s.setSession c).arg1 = s.arg1 := rfl

@[simp] theorem setSession_width (s : State) (c : Session) : (s.setSession c).width = s.width := rfl

@[simp] theorem setSession_height (s : State) (c : Session) : (s.setSession c).height = s.height := rfl

@[simp] theorem setSession_scale (s : State) (c : Session) : (s.setSession c).scale = s.scale := rfl

@[simp] theorem setSession_psize (s : State) (c : Session) : (s.setSession c).psize = s.psize := rfl

@[simp] theorem setSession_quantum (s : State) (c : Session) : (s.setSession c).quantum = s.quantum := rfl

@[simp] theorem setSession_hash (s : State) (c : Session) : (s.setSession c).hash = s.hash := rfl

@[simp] theorem setSession_rectXY (s : State) (c : Session) : (s.setSession c).rectXY = s.rectXY := rfl

@[simp] theorem setSession_rectWH (s : State) (c : Session) : (s.setSession c).rectWH = s.rectWH := rfl

@[simp] theorem setSession_palette (s : State) (c : Session) : (s.setSession c).palette = s.palette := rfl

@[simp] theorem setSession_session (s : State) (c : Session) : (s.setSession c).session = c := rfl

@[simp] theorem setSession_frames (s : State) (c : Session) : (s.setSession c).frames = [] := rfl

@[simp] theorem setSession_out (s : State) (c : Session) : (s.setSession c).out = s.out := rfl

@[simp] theorem setSession_inMem (s : State) (c : Session) : (s.setSession c).inMem = s.inMem := rfl

@[simp] theorem setSession_inEpoch (s : State) (c : Session) : (s.setSession c).inEpoch = s.inEpoch := rfl

@[simp] theorem setSession_script (s : State) (c : Session) : (s.setSession c).script = s.script := rfl

@[simp] theorem setSession_readData (s : State) (c : Session) : (s.setSession c).readData = s.readData := rfl

/-! ### pushFrame -/

@[simp] theorem pushFrame_dev (s : State) (f : List Nat) : (s.pushFrame f).dev = s.dev := rfl

@[simp] theorem pushFrame_phase (s : State) (f : List Nat) : (s.pushFrame f).phase = s.phase := rfl

@[simp] theorem pushFrame_rectEmpty (s : State) (f : List Nat) : (s.pushFrame f).rectEmpty = s.rectEmpty := rfl

@[simp] theorem pushFrame_faultCode (s : State) (f : List Nat) : (s.pushFrame f).faultCode = s.faultCode := rfl

@[simp] theorem pushFrame_arg0 (s : State) (f : List Nat) : (s.pushFrame f).arg0 = s.arg0 := rfl

@[simp] theorem pushFrame_arg1 (s : State) (f : List Nat) : (s.pushFrame f).arg1 = s.arg1 := rfl

@[simp] theorem pushFrame_width (s : State) (f : List Nat) : (s.pushFrame f).width = s.width := rfl

@[simp] theorem pushFrame_height (s : State) (f : List Nat) : (s.pushFrame f).height = s.height := rfl

@[simp] theorem pushFrame_scale (s : State) (f : List Nat) : (s.pushFrame f).scale = s.scale := rfl

@[simp] theorem pushFrame_psize (s : State) (f : List Nat) : (s.pushFrame f).psize = s.psize := rfl

@[simp] theorem pushFrame_quantum (s : State) (f : List Nat) : (s.pushFrame f).quantum = s.quantum := rfl

@[simp] theorem pushFrame_hash (s : State) (f : List Nat) : (s.pushFrame f).hash = s.hash := rfl

@[simp] theorem pushFrame_rectXY (s : State) (f : List Nat) : (s.pushFrame f).rectXY = s.rectXY := rfl

@[simp] theorem pushFrame_rectWH (s : State) (f : List Nat) : (s.pushFrame f).rectWH = s.rectWH := rfl

@[simp] theorem pushFrame_palette (s : State) (f : List Nat) : (s.pushFrame f).palette = s.palette := rfl

@[simp] theorem pushFrame_session (s : State) (f : List Nat) : (s.pushFrame f).session = s.session := rfl

@[simp] theorem pushFrame_frames (s : State) (f : List Nat) : (s.pushFrame f).frames = s.frames ++ [f] := rfl

@[simp] theorem pushFrame_out (s : State) (f : List Nat) : (s.pushFrame f).out = s.out := rfl

@[simp] theorem pushFrame_inMem (s : State) (f : List Nat) : (s.pushFrame f).inMem = s.inMem := rfl

@[simp] theorem pushFrame_inEpoch (s : State) (f : List Nat) : (s.pushFrame f).inEpoch = s.inEpoch := rfl

@[simp] theorem pushFrame_script (s : State) (f : List Nat) : (s.pushFrame f).script = s.script := rfl

@[simp] theorem pushFrame_readData (s : State) (f : List Nat) : (s.pushFrame f).readData = s.readData := rfl

/-! ### setIn -/

@[simp] theorem setIn_dev (s : State) (i : Nat) (v : Word) : (s.setIn i v).dev = s.dev := rfl

@[simp] theorem setIn_phase (s : State) (i : Nat) (v : Word) : (s.setIn i v).phase = s.phase := rfl

@[simp] theorem setIn_rectEmpty (s : State) (i : Nat) (v : Word) : (s.setIn i v).rectEmpty = s.rectEmpty := rfl

@[simp] theorem setIn_faultCode (s : State) (i : Nat) (v : Word) : (s.setIn i v).faultCode = s.faultCode := rfl

@[simp] theorem setIn_arg0 (s : State) (i : Nat) (v : Word) : (s.setIn i v).arg0 = s.arg0 := rfl

@[simp] theorem setIn_arg1 (s : State) (i : Nat) (v : Word) : (s.setIn i v).arg1 = s.arg1 := rfl

@[simp] theorem setIn_width (s : State) (i : Nat) (v : Word) : (s.setIn i v).width = s.width := rfl

@[simp] theorem setIn_height (s : State) (i : Nat) (v : Word) : (s.setIn i v).height = s.height := rfl

@[simp] theorem setIn_scale (s : State) (i : Nat) (v : Word) : (s.setIn i v).scale = s.scale := rfl

@[simp] theorem setIn_psize (s : State) (i : Nat) (v : Word) : (s.setIn i v).psize = s.psize := rfl

@[simp] theorem setIn_quantum (s : State) (i : Nat) (v : Word) : (s.setIn i v).quantum = s.quantum := rfl

@[simp] theorem setIn_hash (s : State) (i : Nat) (v : Word) : (s.setIn i v).hash = s.hash := rfl

@[simp] theorem setIn_rectXY (s : State) (i : Nat) (v : Word) : (s.setIn i v).rectXY = s.rectXY := rfl

@[simp] theorem setIn_rectWH (s : State) (i : Nat) (v : Word) : (s.setIn i v).rectWH = s.rectWH := rfl

@[simp] theorem setIn_palette (s : State) (i : Nat) (v : Word) : (s.setIn i v).palette = s.palette := rfl

@[simp] theorem setIn_session (s : State) (i : Nat) (v : Word) : (s.setIn i v).session = s.session := rfl

@[simp] theorem setIn_frames (s : State) (i : Nat) (v : Word) : (s.setIn i v).frames = s.frames := rfl

@[simp] theorem setIn_out (s : State) (i : Nat) (v : Word) : (s.setIn i v).out = s.out := rfl

@[simp] theorem setIn_inMem (s : State) (i : Nat) (v : Word) : (s.setIn i v).inMem = Memory.write s.inMem i v := rfl

@[simp] theorem setIn_inEpoch (s : State) (i : Nat) (v : Word) : (s.setIn i v).inEpoch = s.inEpoch := rfl

@[simp] theorem setIn_script (s : State) (i : Nat) (v : Word) : (s.setIn i v).script = s.script := rfl

@[simp] theorem setIn_readData (s : State) (i : Nat) (v : Word) : (s.setIn i v).readData = s.readData := rfl

/-! ### setScript -/

@[simp] theorem setScript_dev (s : State) (es : List HostEvent) : (s.setScript es).dev = s.dev := rfl

@[simp] theorem setScript_phase (s : State) (es : List HostEvent) : (s.setScript es).phase = s.phase := rfl

@[simp] theorem setScript_rectEmpty (s : State) (es : List HostEvent) : (s.setScript es).rectEmpty = s.rectEmpty := rfl

@[simp] theorem setScript_faultCode (s : State) (es : List HostEvent) : (s.setScript es).faultCode = s.faultCode := rfl

@[simp] theorem setScript_arg0 (s : State) (es : List HostEvent) : (s.setScript es).arg0 = s.arg0 := rfl

@[simp] theorem setScript_arg1 (s : State) (es : List HostEvent) : (s.setScript es).arg1 = s.arg1 := rfl

@[simp] theorem setScript_width (s : State) (es : List HostEvent) : (s.setScript es).width = s.width := rfl

@[simp] theorem setScript_height (s : State) (es : List HostEvent) : (s.setScript es).height = s.height := rfl

@[simp] theorem setScript_scale (s : State) (es : List HostEvent) : (s.setScript es).scale = s.scale := rfl

@[simp] theorem setScript_psize (s : State) (es : List HostEvent) : (s.setScript es).psize = s.psize := rfl

@[simp] theorem setScript_quantum (s : State) (es : List HostEvent) : (s.setScript es).quantum = s.quantum := rfl

@[simp] theorem setScript_hash (s : State) (es : List HostEvent) : (s.setScript es).hash = s.hash := rfl

@[simp] theorem setScript_rectXY (s : State) (es : List HostEvent) : (s.setScript es).rectXY = s.rectXY := rfl

@[simp] theorem setScript_rectWH (s : State) (es : List HostEvent) : (s.setScript es).rectWH = s.rectWH := rfl

@[simp] theorem setScript_palette (s : State) (es : List HostEvent) : (s.setScript es).palette = s.palette := rfl

@[simp] theorem setScript_session (s : State) (es : List HostEvent) : (s.setScript es).session = s.session := rfl

@[simp] theorem setScript_frames (s : State) (es : List HostEvent) : (s.setScript es).frames = s.frames := rfl

@[simp] theorem setScript_out (s : State) (es : List HostEvent) : (s.setScript es).out = s.out := rfl

@[simp] theorem setScript_inMem (s : State) (es : List HostEvent) : (s.setScript es).inMem = s.inMem := rfl

@[simp] theorem setScript_inEpoch (s : State) (es : List HostEvent) : (s.setScript es).inEpoch = s.inEpoch := rfl

@[simp] theorem setScript_script (s : State) (es : List HostEvent) : (s.setScript es).script = es := rfl

@[simp] theorem setScript_readData (s : State) (es : List HostEvent) : (s.setScript es).readData = s.readData := rfl

/-! ### pushRead -/

@[simp] theorem pushRead_dev (s : State) (v : Word) : (s.pushRead v).dev = s.dev := rfl

@[simp] theorem pushRead_phase (s : State) (v : Word) : (s.pushRead v).phase = s.phase := rfl

@[simp] theorem pushRead_rectEmpty (s : State) (v : Word) : (s.pushRead v).rectEmpty = s.rectEmpty := rfl

@[simp] theorem pushRead_faultCode (s : State) (v : Word) : (s.pushRead v).faultCode = s.faultCode := rfl

@[simp] theorem pushRead_arg0 (s : State) (v : Word) : (s.pushRead v).arg0 = s.arg0 := rfl

@[simp] theorem pushRead_arg1 (s : State) (v : Word) : (s.pushRead v).arg1 = s.arg1 := rfl

@[simp] theorem pushRead_width (s : State) (v : Word) : (s.pushRead v).width = s.width := rfl

@[simp] theorem pushRead_height (s : State) (v : Word) : (s.pushRead v).height = s.height := rfl

@[simp] theorem pushRead_scale (s : State) (v : Word) : (s.pushRead v).scale = s.scale := rfl

@[simp] theorem pushRead_psize (s : State) (v : Word) : (s.pushRead v).psize = s.psize := rfl

@[simp] theorem pushRead_quantum (s : State) (v : Word) : (s.pushRead v).quantum = s.quantum := rfl

@[simp] theorem pushRead_hash (s : State) (v : Word) : (s.pushRead v).hash = s.hash := rfl

@[simp] theorem pushRead_rectXY (s : State) (v : Word) : (s.pushRead v).rectXY = s.rectXY := rfl

@[simp] theorem pushRead_rectWH (s : State) (v : Word) : (s.pushRead v).rectWH = s.rectWH := rfl

@[simp] theorem pushRead_palette (s : State) (v : Word) : (s.pushRead v).palette = s.palette := rfl

@[simp] theorem pushRead_session (s : State) (v : Word) : (s.pushRead v).session = s.session := rfl

@[simp] theorem pushRead_frames (s : State) (v : Word) : (s.pushRead v).frames = s.frames := rfl

@[simp] theorem pushRead_out (s : State) (v : Word) : (s.pushRead v).out = s.out := rfl

@[simp] theorem pushRead_inMem (s : State) (v : Word) : (s.pushRead v).inMem = s.inMem := rfl

@[simp] theorem pushRead_inEpoch (s : State) (v : Word) : (s.pushRead v).inEpoch = s.inEpoch := rfl

@[simp] theorem pushRead_script (s : State) (v : Word) : (s.pushRead v).script = s.script := rfl

@[simp] theorem pushRead_readData (s : State) (v : Word) : (s.pushRead v).readData = s.readData ++ [v] := rfl

/-! ### raiseFault -/

@[simp] theorem raiseFault_dev (c : FaultCode) (s : State) : (raiseFault c s).dev = s.dev := rfl

@[simp] theorem raiseFault_phase (c : FaultCode) (s : State) : (raiseFault c s).phase = Phase.fault := rfl

@[simp] theorem raiseFault_rectEmpty (c : FaultCode) (s : State) : (raiseFault c s).rectEmpty = s.rectEmpty := rfl

@[simp] theorem raiseFault_faultCode (c : FaultCode) (s : State) : (raiseFault c s).faultCode = c := rfl

@[simp] theorem raiseFault_arg0 (c : FaultCode) (s : State) : (raiseFault c s).arg0 = s.arg0 := rfl

@[simp] theorem raiseFault_arg1 (c : FaultCode) (s : State) : (raiseFault c s).arg1 = s.arg1 := rfl

@[simp] theorem raiseFault_width (c : FaultCode) (s : State) : (raiseFault c s).width = s.width := rfl

@[simp] theorem raiseFault_height (c : FaultCode) (s : State) : (raiseFault c s).height = s.height := rfl

@[simp] theorem raiseFault_scale (c : FaultCode) (s : State) : (raiseFault c s).scale = s.scale := rfl

@[simp] theorem raiseFault_psize (c : FaultCode) (s : State) : (raiseFault c s).psize = s.psize := rfl

@[simp] theorem raiseFault_quantum (c : FaultCode) (s : State) : (raiseFault c s).quantum = s.quantum := rfl

@[simp] theorem raiseFault_hash (c : FaultCode) (s : State) : (raiseFault c s).hash = s.hash := rfl

@[simp] theorem raiseFault_rectXY (c : FaultCode) (s : State) : (raiseFault c s).rectXY = s.rectXY := rfl

@[simp] theorem raiseFault_rectWH (c : FaultCode) (s : State) : (raiseFault c s).rectWH = s.rectWH := rfl

@[simp] theorem raiseFault_palette (c : FaultCode) (s : State) : (raiseFault c s).palette = s.palette := rfl

@[simp] theorem raiseFault_session (c : FaultCode) (s : State) : (raiseFault c s).session = s.session := rfl

@[simp] theorem raiseFault_frames (c : FaultCode) (s : State) : (raiseFault c s).frames = s.frames := rfl

@[simp] theorem raiseFault_out (c : FaultCode) (s : State) : (raiseFault c s).out = s.out := rfl

@[simp] theorem raiseFault_inMem (c : FaultCode) (s : State) : (raiseFault c s).inMem = s.inMem := rfl

@[simp] theorem raiseFault_inEpoch (c : FaultCode) (s : State) : (raiseFault c s).inEpoch = s.inEpoch := rfl

@[simp] theorem raiseFault_script (c : FaultCode) (s : State) : (raiseFault c s).script = s.script := rfl

@[simp] theorem raiseFault_readData (c : FaultCode) (s : State) : (raiseFault c s).readData = s.readData := rfl

/-! ### raiseRunningFault -/

@[simp] theorem raiseRunningFault_dev (c : FaultCode) (s : State) : (raiseRunningFault c s).dev = s.dev := rfl

@[simp] theorem raiseRunningFault_phase (c : FaultCode) (s : State) : (raiseRunningFault c s).phase = Phase.fault := rfl

@[simp] theorem raiseRunningFault_rectEmpty (c : FaultCode) (s : State) : (raiseRunningFault c s).rectEmpty = s.rectEmpty := rfl

@[simp] theorem raiseRunningFault_faultCode (c : FaultCode) (s : State) : (raiseRunningFault c s).faultCode = c := rfl

@[simp] theorem raiseRunningFault_arg0 (c : FaultCode) (s : State) : (raiseRunningFault c s).arg0 = s.arg0 := rfl

@[simp] theorem raiseRunningFault_arg1 (c : FaultCode) (s : State) : (raiseRunningFault c s).arg1 = s.arg1 := rfl

@[simp] theorem raiseRunningFault_width (c : FaultCode) (s : State) : (raiseRunningFault c s).width = s.width := rfl

@[simp] theorem raiseRunningFault_height (c : FaultCode) (s : State) : (raiseRunningFault c s).height = s.height := rfl

@[simp] theorem raiseRunningFault_scale (c : FaultCode) (s : State) : (raiseRunningFault c s).scale = s.scale := rfl

@[simp] theorem raiseRunningFault_psize (c : FaultCode) (s : State) : (raiseRunningFault c s).psize = s.psize := rfl

@[simp] theorem raiseRunningFault_quantum (c : FaultCode) (s : State) : (raiseRunningFault c s).quantum = s.quantum := rfl

@[simp] theorem raiseRunningFault_hash (c : FaultCode) (s : State) : (raiseRunningFault c s).hash = s.hash := rfl

@[simp] theorem raiseRunningFault_rectXY (c : FaultCode) (s : State) : (raiseRunningFault c s).rectXY = s.rectXY := rfl

@[simp] theorem raiseRunningFault_rectWH (c : FaultCode) (s : State) : (raiseRunningFault c s).rectWH = s.rectWH := rfl

@[simp] theorem raiseRunningFault_palette (c : FaultCode) (s : State) : (raiseRunningFault c s).palette = s.palette := rfl

@[simp] theorem raiseRunningFault_session (c : FaultCode) (s : State) : (raiseRunningFault c s).session = s.session := rfl

@[simp] theorem raiseRunningFault_frames (c : FaultCode) (s : State) : (raiseRunningFault c s).frames = s.frames := rfl

@[simp] theorem raiseRunningFault_out (c : FaultCode) (s : State) : (raiseRunningFault c s).out = s.out.unspecified := rfl

@[simp] theorem raiseRunningFault_inMem (c : FaultCode) (s : State) : (raiseRunningFault c s).inMem = s.inMem := rfl

@[simp] theorem raiseRunningFault_inEpoch (c : FaultCode) (s : State) : (raiseRunningFault c s).inEpoch = s.inEpoch := rfl

@[simp] theorem raiseRunningFault_script (c : FaultCode) (s : State) : (raiseRunningFault c s).script = s.script := rfl

@[simp] theorem raiseRunningFault_readData (c : FaultCode) (s : State) : (raiseRunningFault c s).readData = s.readData := rfl

/-! ### doReset -/

@[simp] theorem doReset_dev (s : State) : (doReset s).dev = s.dev := rfl

@[simp] theorem doReset_phase (s : State) : (doReset s).phase = Phase.idle := rfl

@[simp] theorem doReset_rectEmpty (s : State) : (doReset s).rectEmpty = false := rfl

@[simp] theorem doReset_faultCode (s : State) : (doReset s).faultCode = FaultCode.noFault := rfl

@[simp] theorem doReset_arg0 (s : State) : (doReset s).arg0 = 0 := rfl

@[simp] theorem doReset_arg1 (s : State) : (doReset s).arg1 = 0 := rfl

@[simp] theorem doReset_width (s : State) : (doReset s).width = 0 := rfl

@[simp] theorem doReset_height (s : State) : (doReset s).height = 0 := rfl

@[simp] theorem doReset_scale (s : State) : (doReset s).scale = 1 := rfl

@[simp] theorem doReset_psize (s : State) : (doReset s).psize = 16 := rfl

@[simp] theorem doReset_quantum (s : State) : (doReset s).quantum = 0 := rfl

@[simp] theorem doReset_hash (s : State) : (doReset s).hash = BitVec.ofNat 32 hashSeed := rfl

@[simp] theorem doReset_rectXY (s : State) : (doReset s).rectXY = 0 := rfl

@[simp] theorem doReset_rectWH (s : State) : (doReset s).rectWH = 0 := rfl

@[simp] theorem doReset_palette (s : State) : (doReset s).palette = Vector.replicate maxPalette 0 := rfl

@[simp] theorem doReset_session (s : State) : (doReset s).session = Session.afterReset := rfl

@[simp] theorem doReset_frames (s : State) : (doReset s).frames = [] := rfl

@[simp] theorem doReset_out (s : State) : (doReset s).out = { cells := [], len := 0, epoch := s.out.epoch + 1 } := rfl

@[simp] theorem doReset_inMem (s : State) : (doReset s).inMem = [] := rfl

@[simp] theorem doReset_inEpoch (s : State) : (doReset s).inEpoch = s.inEpoch + 1 := rfl

@[simp] theorem doReset_script (s : State) : (doReset s).script = s.script := rfl

@[simp] theorem doReset_readData (s : State) : (doReset s).readData = s.readData := rfl

end Sys2Proof.Machine
end

