-- ==== Sys2Proof/Laws/Out.lean ====
section
/-! SUPPORT. What OutAppend and OutAppendAll (00_scope.md R15) do to the OUT buffer, said once. -/

namespace Sys2Proof.Machine

/-- The buffer holds exactly these bytes: OUT[0..OUTLEN) = xs. -/
def OutBuf.Holds (b : OutBuf) (xs : List Byte) : Prop :=
  b.cells = (List.range xs.length).zip xs ∧ b.len.toNat = xs.length

theorem OutBuf.holds_clear (b : OutBuf) : b.clear.Holds [] := by simp [OutBuf.Holds, OutBuf.clear]

theorem OutBuf.holds_redraw {b : OutBuf} {xs : List Byte} (h : b.Holds xs) : b.redraw.Holds xs := h

theorem OutBuf.Holds.keys {b : OutBuf} {xs : List Byte} (h : b.Holds xs) :
    b.cells.map Prod.fst = List.range b.len.toNat := by
  rw [h.1, h.2]
  exact List.map_fst_zip (by simp)

theorem OutBuf.Holds.wf {b : OutBuf} {xs : List Byte} (h : b.Holds xs) : Memory.wf b.cells := by
  rw [Memory.wf, h.keys]
  exact List.pairwise_lt_range

theorem OutBuf.Holds.lt_of_mem {b : OutBuf} {xs : List Byte} (h : b.Holds xs) {c : Host.Cell} (hc : c ∈ b.cells) :
    c.1 < xs.length := by
  have : c.1 ∈ List.range xs.length := by
    rw [← h.2, ← h.keys]
    exact List.mem_map_of_mem hc
  simpa using this

theorem OutBuf.Holds.read {b : OutBuf} {xs : List Byte} (h : b.Holds xs) {k : Nat} (hk : k < xs.length) :
    Memory.read b.cells k = some xs[k] := by
  refine Memory.read_of_mem h.wf ?_
  rw [h.1, List.mem_iff_getElem]
  exact ⟨k, by simpa using hk, by simp⟩

/-- A buffer in the canonical form of the invariant holds the bytes it lists. -/
theorem OutBuf.holds_of_keys {b : OutBuf} (h : b.cells.map Prod.fst = List.range b.len.toNat) :
    b.Holds (b.cells.map Prod.snd) := by
  have hl : b.cells.length = b.len.toNat := by simpa using congrArg List.length h
  constructor
  · rw [List.length_map, hl, ← h, ← List.unzip_fst, ← List.unzip_snd, List.zip_unzip]
  · simp [hl]

/-- OutAppend on a buffer with room. -/
theorem outAppend_ok {cap : Nat} {b : OutBuf} {xs : List Byte} (hb : b.Holds xs) (hcap : cap < 2 ^ 32)
    (hroom : xs.length < cap) (x : Byte) :
    ∃ b', outAppend cap b x = .ok b' ∧ b'.Holds (xs ++ [x]) ∧ b'.epoch = b.epoch := by
  refine ⟨{ b with cells := Memory.write b.cells b.len.toNat x, len := b.len + 1 },
    by rw [outAppend, if_neg (by rw [hb.2]; omega)], ⟨?_, ?_⟩, rfl⟩
  · simp only
    rw [hb.2, Memory.write_end x fun c hc => hb.lt_of_mem hc, hb.1, List.length_append, List.length_singleton,
      List.range_succ, List.zip_append (by simp)]
    rfl
  · simp only [List.length_append, List.length_singleton, BitVec.toNat_add, hb.2]
    rw [show (1 : BitVec 32).toNat = 1 from rfl]
    omega

/-- OutAppendAll on a buffer with room appends all the bytes. -/
theorem outAppendAll_ok {cap : Nat} (hcap : cap < 2 ^ 32) (ys : List Byte) :
    ∀ {b : OutBuf} {xs : List Byte}, b.Holds xs → xs.length + ys.length ≤ cap →
      ∃ b', outAppendAll cap b ys = .ok b' ∧ b'.Holds (xs ++ ys) ∧ b'.epoch = b.epoch := by
  induction ys with
  | nil => intro b xs hb _; exact ⟨b, rfl, by simpa using hb, rfl⟩
  | cons y ys ih =>
    intro b xs hb hroom
    simp only [List.length_cons] at hroom
    obtain ⟨b1, h1, hb1, he1⟩ := outAppend_ok hb hcap (by omega) y
    obtain ⟨b2, h2, hb2, he2⟩ := ih hb1 (by simp; omega)
    exact ⟨b2, by simp [outAppendAll, h1, h2], by simpa using hb2, by rw [he2, he1]⟩

/-- OutAppendAll without the room for all the bytes raises OUT_OVERFLOW. -/
theorem outAppendAll_overflow {cap : Nat} (hcap : cap < 2 ^ 32) (ys : List Byte) :
    ∀ {b : OutBuf} {xs : List Byte}, b.Holds xs → xs.length ≤ cap → cap < xs.length + ys.length →
      outAppendAll cap b ys = .error .outOverflow := by
  induction ys with
  | nil => intro b xs _ h1 h2; simp at h2; omega
  | cons y ys ih =>
    intro b xs hb hle hover
    simp only [List.length_cons] at hover
    by_cases h : xs.length = cap
    · simp [outAppendAll, outAppend, hb.2, h]
    · obtain ⟨b1, h1, hb1, _⟩ := outAppend_ok hb hcap (by omega) y
      simp only [outAppendAll, h1]
      exact ih hb1 (by simp; omega) (by simp; omega)

/-- OutAppendAll raises no other fault, whatever the buffer. -/
theorem outAppendAll_error {cap : Nat} {ys : List Byte} {f : FaultCode} :
    ∀ {b : OutBuf}, outAppendAll cap b ys = .error f → f = .outOverflow := by
  induction ys with
  | nil => intro b h; simp [outAppendAll] at h
  | cons y ys ih =>
    intro b h
    simp only [outAppendAll] at h
    split at h
    · rename_i e he
      rw [outAppend] at he
      split at he
      · cases he; cases h; rfl
      · cases he
    · exact ih h

/-- When OutAppendAll succeeds on a held buffer within the capacity, the bytes fit and the result holds them. -/
theorem outAppendAll_ok_inv {cap : Nat} (hcap : cap < 2 ^ 32) {b b' : OutBuf} {xs ys : List Byte} (hb : b.Holds xs)
    (hle : xs.length ≤ cap) (h : outAppendAll cap b ys = .ok b') :
    xs.length + ys.length ≤ cap ∧ b'.Holds (xs ++ ys) := by
  by_cases hroom : xs.length + ys.length ≤ cap
  · obtain ⟨b2, h2, hb2, _⟩ := outAppendAll_ok hcap ys hb hroom
    rw [h2] at h; cases h
    exact ⟨hroom, hb2⟩
  · rw [outAppendAll_overflow hcap ys hb hle (by omega)] at h
    cases h

/-- The valid output of a state whose buffer holds `xs`. -/
theorem outBytes_of_holds {s : State} {xs : List Byte} (h : s.out.Holds xs) (hle : xs.length ≤ s.dev.outBytes) :
    s.outBytes = xs := by
  rw [State.outBytes, h.2]
  refine List.ext_getElem (by simp) fun k h1 h2 => ?_
  rw [List.getElem_map, List.getElem_range, State.outByte, if_neg (by omega), h.2, if_pos h2, h.read h2]
  rfl

/-- A state in the invariant's form, not after an execution fault, holds its valid output. -/
theorem State.OutOk.holds {s : State} (h : s.OutOk) (hr : ¬ s.faultCode.isRunning) :
    s.out.Holds s.outBytes ∧ s.outBytes.length ≤ s.dev.outBytes := by
  obtain ⟨hle, hk⟩ := h.2.2 hr
  have hh := OutBuf.holds_of_keys hk
  have hl : (s.out.cells.map Prod.snd).length ≤ s.dev.outBytes := by rw [← hh.2]; exact hle
  rw [outBytes_of_holds hh hl]
  exact ⟨hh, hl⟩

/-- A buffer that holds `xs`, within the device, has the form the invariant asks of OUT. -/
theorem State.outOk_of_holds {s : State} {xs : List Byte} (h : s.out.Holds xs) (hle : xs.length ≤ s.dev.outBytes) :
    s.OutOk :=
  ⟨h.wf, fun _ hc => lt_of_lt_of_le (h.lt_of_mem hc) hle, fun _ => ⟨by rw [h.2]; exact hle, h.keys⟩⟩

theorem State.length_outBytes (s : State) : s.outBytes.length = s.out.len.toNat := by simp [State.outBytes]

/-- The sizes of a well-formed device (00_scope.md R8). -/
theorem Params.wf_iff {d : Params} : d.wf = true ↔
    (1 ≤ d.inWords ∧ d.inWords ≤ 2 ^ 22) ∧ (1 ≤ d.outBytes ∧ d.outBytes ≤ 2 ^ 24) ∧ 1 ≤ d.maxFrames := by
  simp [Params.wf, and_assoc]

end Sys2Proof.Machine
end

