-- ==== Sys2Proof/Laws/Exec.lean ====
section
/-! SUPPORT. Inversion: what a command, a transaction and a step can do, said once for each. -/

namespace Sys2Proof.Machine

/-! ## The permission check -/

/-- The three things 30_encoding.md R110 can do with a legal command. -/
theorem issue_cases (i : Instr) (s body : State) :
    (allowed i s.phase = true ∧ issue i s body = .next body) ∨
    (allowed i s.phase = false ∧ s.phase = .fault ∧ issue i s body = .next s) ∨
    (allowed i s.phase = false ∧ s.phase ≠ .fault ∧ issue i s body = .next (raiseFault .badState s)) := by
  unfold issue
  cases h : allowed i s.phase
  · by_cases hf : s.phase = .fault <;> simp [hf]
  · simp

theorem issue_allowed {i : Instr} {s : State} (h : allowed i s.phase = true) (body : State) :
    issue i s body = .next body := by simp [issue, h]

/-- The effect of each command where it is allowed: the pseudocode of its rule. -/
def effect (i : Instr) (s : State) : State :=
  match i with
  | .nop => s
  | .softReset => doReset s
  | .configure => configureBody s
  | .addFrame => addFrameBody s
  | .finish => finishBody s
  | .diffRect => diffRectBody s
  | .lzwEncode => lzwEncodeBody s
  | .hashInit => s.setHash hashInitial
  | .hashExtend => s.setHash (extend s.hash s.arg0Nat)
  | .hashSeq => hashSeqBody s

/-- Every command is its effect behind the permission check. -/
theorem exec_eq_issue (i : Instr) (s : State) : exec i s = issue i s (effect i s) := by cases i <;> rfl

/-- Every command answers a next state, in every state. -/
theorem exec_next (i : Instr) (s : State) : ∃ t, exec i s = .next t := by
  rw [exec_eq_issue]
  rcases issue_cases i s (effect i s) with ⟨_, h⟩ | ⟨_, _, h⟩ | ⟨_, _, h⟩ <;> exact ⟨_, h⟩

/-- What a command can do. -/
theorem exec_cases {i : Instr} {s t : State} (h : exec i s = .next t) :
    (allowed i s.phase = true ∧ t = effect i s) ∨
    (allowed i s.phase = false ∧ s.phase = .fault ∧ t = s) ∨
    (allowed i s.phase = false ∧ s.phase ≠ .fault ∧ t = raiseFault .badState s) := by
  rw [exec_eq_issue] at h
  rcases issue_cases i s (effect i s) with ⟨ha, hb⟩ | ⟨ha, hf, hb⟩ | ⟨ha, hf, hb⟩ <;>
    (rw [hb] at h; injection h with h; subst h)
  · exact .inl ⟨ha, rfl⟩
  · exact .inr (.inl ⟨ha, hf, rfl⟩)
  · exact .inr (.inr ⟨ha, hf, rfl⟩)

/-! ## The effects -/

/-- The three legal values of PSIZE (10_state.md R42). -/
theorem PaletteSize.ofReg_eq_some {r : BitVec 5} {p : PaletteSize} :
    PaletteSize.ofReg r = some p ↔ r.toNat = p.toNat := by
  revert p
  revert r
  have hr : ∀ (r : BitVec 5) (p : PaletteSize), PaletteSize.ofReg r = some p ↔ r.toNat = p.toNat := by
    intro r p
    cases p <;> revert r <;> decide
  exact @hr

theorem PaletteSize.ofReg_eq_none {r : BitVec 5} :
    PaletteSize.ofReg r = none ↔ r.toNat ∉ [4, 8, 16] := by
  revert r
  decide

theorem hasDuplicate_eq_false {cs : List Word} : hasDuplicate cs = false ↔ cs.Nodup := by
  induction cs with
  | nil => simp [hasDuplicate]
  | cons c cs ih => simp [hasDuplicate, ih]

/-- The checks of CONFIGURE, taken together (40_container.md R141). -/
def configurable (s : State) (p : PaletteSize) : Prop :=
  PaletteSize.ofReg s.psize = some p ∧ s.width ≠ 0 ∧ s.height ≠ 0 ∧ s.scale ≠ 0 ∧
    s.width.toNat * s.height.toNat ≤ s.dev.inWords ∧ (s.paletteWords p.toNat).Nodup

/-- What CONFIGURE can do: refuse the configuration, overflow OUT after latching, or start the session. -/
theorem configureBody_cases (s : State) :
    ((∀ p, ¬ configurable s p) ∧ configureBody s = raiseFault .badConfig s) ∨
    ∃ p, configurable s p ∧
      ((outAppendAll s.dev.outBytes s.out.clear (headerBytes (s.latched p)) = .error .outOverflow ∧
          configureBody s = raiseRunningFault .outOverflow (s.setSession (s.latched p))) ∨
        ∃ b, outAppendAll s.dev.outBytes s.out.clear (headerBytes (s.latched p)) = .ok b ∧
          configureBody s = ((s.setSession (s.latched p)).setOut b).setPhase .accumulating) := by
  unfold configureBody
  split
  · rename_i hp
    exact .inl ⟨fun p h => by simp [configurable, hp] at h, rfl⟩
  · rename_i p hp
    have only : ∀ q, configurable s q → q = p := fun q h => by
      have := h.1; rw [hp] at this; exact (Option.some.inj this).symm
    split
    · rename_i hz
      refine .inl ⟨fun q h => ?_, rfl⟩
      obtain ⟨-, h1, h2, h3, -⟩ := h
      rcases hz with hz | hz | hz <;> contradiction
    · rename_i hz
      split
      · rename_i hm
        exact .inl ⟨fun q h => absurd h.2.2.2.2.1 (by omega), rfl⟩
      · rename_i hm
        split
        · rename_i hd
          refine .inl ⟨fun q h => ?_, rfl⟩
          have := hasDuplicate_eq_false.mpr h.2.2.2.2.2
          rw [only q h, hd] at this
          cases this
        · rename_i hd
          refine .inr ⟨p, ⟨hp, ?_, ?_, ?_, by omega, hasDuplicate_eq_false.mp (by simpa using hd)⟩, ?_⟩
          · exact fun h => hz (.inl h)
          · exact fun h => hz (.inr (.inl h))
          · exact fun h => hz (.inr (.inr h))
          · unfold configureRun
            cases ho : outAppendAll s.dev.outBytes s.out.clear (headerBytes (s.latched p)) with
            | error f => cases outAppendAll_error ho; exact .inl ⟨rfl, rfl⟩
            | ok b => exact .inr ⟨b, rfl, rfl⟩

/-- What ADD_FRAME can do. -/
theorem addFrameBody_cases (s : State) :
    (s.arg0Nat ≠ s.session.pixels ∧ addFrameBody s = raiseFault .dimension s) ∨
    (s.arg0Nat = s.session.pixels ∧ s.nframes = s.dev.maxFrames ∧
      addFrameBody s = raiseFault .frameStoreFull s) ∨
    (s.arg0Nat = s.session.pixels ∧ s.nframes ≠ s.dev.maxFrames ∧
      addFrameBody s = s.pushFrame ((s.inWords s.arg0Nat).map (lookup s.session.palette))) := by
  unfold addFrameBody
  by_cases h : s.arg0Nat = s.session.pixels <;> by_cases hm : s.nframes = s.dev.maxFrames <;> simp [h, hm]

/-- What FINISH can do. -/
theorem finishBody_cases (s : State) :
    (∃ e, finishOut s = .error e ∧ finishBody s = raiseRunningFault e s) ∨
    ∃ b, finishOut s = .ok b ∧ finishBody s = (s.setOut b).setPhase .finalized := by
  unfold finishBody
  cases h : finishOut s with
  | error e => exact .inl ⟨e, rfl, rfl⟩
  | ok b => exact .inr ⟨b, rfl, rfl⟩

/-- What DIFF_RECT can do. -/
theorem diffRectBody_cases (s : State) :
    ((s.nframes ≤ s.arg0Nat ∨ s.nframes ≤ s.arg1Nat) ∧ diffRectBody s = raiseFault .frameIndex s) ∨
    (s.arg0Nat < s.nframes ∧ s.arg1Nat < s.nframes ∧
      diffRectBody s = reportRect s (bbox (s.frame s.arg0Nat) (s.frame s.arg1Nat)
        s.session.width.toNat s.session.height.toNat)) := by
  unfold diffRectBody
  split
  · rename_i h; exact .inl ⟨h, rfl⟩
  · rename_i h; push Not at h; exact .inr ⟨h.1, h.2, rfl⟩

/-- What LZW_ENCODE can do. -/
theorem lzwEncodeBody_cases (s : State) :
    (PaletteSize.ofReg s.psize = none ∧ lzwEncodeBody s = raiseFault .badConfig s) ∨
    ∃ p, PaletteSize.ofReg s.psize = some p ∧
      ((s.arg0Nat = 0 ∧ lzwEncodeBody s = raiseFault .emptyInput s) ∨
       (s.arg0Nat ≠ 0 ∧ s.dev.inWords < s.arg0Nat ∧ lzwEncodeBody s = raiseFault .inRange s) ∨
       (s.arg0Nat ≠ 0 ∧ s.arg0Nat ≤ s.dev.inWords ∧ lzwEncodeBody s = lzwEncodeRun s p)) := by
  unfold lzwEncodeBody
  cases hp : PaletteSize.ofReg s.psize with
  | none => exact .inl ⟨rfl, rfl⟩
  | some p =>
    refine .inr ⟨p, rfl, ?_⟩
    by_cases h0 : s.arg0Nat = 0
    · simp [h0]
    · by_cases hn : s.dev.inWords < s.arg0Nat
      · simp [h0, hn]
      · simp [h0, hn, Nat.le_of_not_lt hn]

/-- What the run of LZW_ENCODE can do. -/
theorem lzwEncodeRun_cases (s : State) (p : PaletteSize) :
    (∃ f, lzwStream s.dev p s.symbols = .error f ∧ lzwEncodeRun s p = raiseRunningFault f s) ∨
    ∃ bytes, lzwStream s.dev p s.symbols = .ok bytes ∧
      ((outAppendAll s.dev.outBytes s.out.clear bytes = .error .outOverflow ∧
          lzwEncodeRun s p = raiseRunningFault .outOverflow s) ∨
        ∃ b, outAppendAll s.dev.outBytes s.out.clear bytes = .ok b ∧ lzwEncodeRun s p = s.setOut b) := by
  unfold lzwEncodeRun
  cases hl : lzwStream s.dev p s.symbols with
  | error f => exact .inl ⟨f, rfl, rfl⟩
  | ok bytes =>
    refine .inr ⟨bytes, rfl, ?_⟩
    cases ho : outAppendAll s.dev.outBytes s.out.clear bytes with
    | error f => cases outAppendAll_error ho; exact .inl ⟨rfl, by simp [ho]⟩
    | ok b => exact .inr ⟨b, rfl, by simp [ho]⟩

/-- What HASH_SEQ can do. -/
theorem hashSeqBody_cases (s : State) :
    (s.dev.inWords < s.arg0Nat ∧ hashSeqBody s = raiseFault .inRange s) ∨
    (s.arg0Nat ≤ s.dev.inWords ∧
      hashSeqBody s = s.setHash (hashFrom s.hash ((s.inWords s.arg0Nat).map BitVec.toNat))) := by
  unfold hashSeqBody
  split
  · rename_i h; exact .inl ⟨h, rfl⟩
  · rename_i h; exact .inr ⟨Nat.le_of_not_lt h, rfl⟩

/-! ## Transactions and steps -/

/-- What a write to the command port can do. -/
theorem runCommand_cases (w : Word) (s : State) :
    (∃ i, decode w = .ok i ∧ runCommand w s = exec i s) ∨
    (∃ r, decode w = .error r ∧ runCommand w s = .next (illegalWord s)) := by
  unfold runCommand
  cases h : decode w with
  | ok i => exact .inl ⟨i, rfl, rfl⟩
  | error r => exact .inr ⟨r, rfl, rfl⟩

/-- What a register write, an IN write or an ignored write can do. -/
theorem plainWrite_cases (s : State) (a v : Word) :
    (∃ r, plainWrite s a v = writeReg s v r) ∨ (∃ i, i < s.dev.inWords ∧ plainWrite s a v = s.setIn i v) ∨
      plainWrite s a v = s := by
  unfold plainWrite
  split
  · split
    · rename_i r _; exact .inl ⟨r, rfl⟩
    · exact .inr (.inr rfl)
  · split
    · split
      · rename_i h; exact .inr (.inl ⟨_, h, rfl⟩)
      · exact .inr (.inr rfl)
    · exact .inr (.inr rfl)

/-- What one transaction of the host can do when it has a step. -/
theorem hostEvent_cases {e : HostEvent} {s t : State} (h : hostEvent e s = .next t) :
    (∃ a n, e = .read a n ∧ accessOk a n = true ∧ t = s.pushRead (memRead s a)) ∨
    (∃ a n v, e = .write a n v ∧ accessOk a n = true ∧ a = Reg.addr .cmd ∧ runCommand v s = .next t) ∨
    (∃ a n v, e = .write a n v ∧ accessOk a n = true ∧ a ≠ Reg.addr .cmd ∧ t = plainWrite s a v) ∨
    (e = .reset ∧ t = doReset s) := by
  cases e with
  | read a n =>
    simp only [hostEvent] at h
    split at h
    · rename_i ha; cases h; exact .inl ⟨a, n, rfl, ha, rfl⟩
    · cases h
  | write a n v =>
    simp only [hostEvent] at h
    split at h
    · rename_i ha
      simp only [memWrite] at h
      split at h
      · rename_i hc; exact .inr (.inl ⟨a, n, v, rfl, ha, hc, h⟩)
      · rename_i hc; cases h; exact .inr (.inr (.inl ⟨a, n, v, rfl, ha, hc, rfl⟩))
    · cases h
  | reset => cases h; exact .inr (.inr (.inr ⟨rfl, rfl⟩))

/-- What a step can do when it answers a next state. -/
theorem step_cases {s t : State} (h : step s = .next t) :
    (s.script = [] ∧ t = s) ∨ ∃ e es, s.script = e :: es ∧ hostEvent e (s.setScript es) = .next t := by
  unfold step at h
  split at h
  · rename_i hs; cases h; exact .inl ⟨hs, rfl⟩
  · rename_i e es hs; exact .inr ⟨e, es, hs, h⟩

/-- A well-formed transaction always has a step. -/
theorem hostEvent_next {e : HostEvent} (he : e.wf = true) (s : State) : ∃ t, hostEvent e s = .next t := by
  cases e with
  | read a n => exact ⟨s.pushRead (memRead s a), by simp [hostEvent, show accessOk a n = true from he]⟩
  | write a n v =>
    simp only [hostEvent, show accessOk a n = true from he, if_true, memWrite]
    split
    · rcases runCommand_cases v s with ⟨i, _, h⟩ | ⟨r, _, h⟩
      · rw [h]; exact exec_next i s
      · exact ⟨_, h⟩
    · exact ⟨_, rfl⟩
  | reset => exact ⟨_, rfl⟩

end Sys2Proof.Machine
end

