-- ==== Sys2Proof/Laws/PerInstr.lean ====
section
/-! SUPPORT. The statements made command by command (LAWS.json). -/

namespace Sys2Proof.Laws.CommandWord

/-- The word of a command is well formed by 30_encoding.md R111 and R112: its OPCODE is the command's, its RSVD is 0,
and decoding it gives the command back. -/
def Statement (i : Sys2Proof.Instr) : Prop :=
  i.wf = true ∧ opcodeField (encode i) = opcodeOf i ∧ rsvdField (encode i) = 0 ∧ decode (encode i) = .ok i

theorem nop : Statement .nop := by unfold Statement; decide

theorem softReset : Statement .softReset := by unfold Statement; decide

theorem configure : Statement .configure := by unfold Statement; decide

theorem addFrame : Statement .addFrame := by unfold Statement; decide

theorem finish : Statement .finish := by unfold Statement; decide

theorem diffRect : Statement .diffRect := by unfold Statement; decide

theorem lzwEncode : Statement .lzwEncode := by unfold Statement; decide

theorem hashInit : Statement .hashInit := by unfold Statement; decide

theorem hashExtend : Statement .hashExtend := by unfold Statement; decide

theorem hashSeq : Statement .hashSeq := by unfold Statement; decide

end Sys2Proof.Laws.CommandWord
end

