-- ==== Sys2Proof/Tests/Slice0.lean ====
section
/-! SUPPORT. Tests: ill-formed terms, command words written out from the spec, vectors of 95_test_vectors.md (each
test names its vector), and for every obligation with hypotheses a concrete case that meets them (`witness_…`). -/

namespace Sys2Proof.Tests

open Sys2Proof Sys2Proof.Machine

/-! ## Builders -/

/-- IN holding these words from index `k` on. -/
def inImage (k : Nat) : List Word → Memory Word
  | [] => []
  | v :: vs => (k, v) :: inImage (k + 1) vs

/-- The state in which `o` ends, or the reset state if it is no next state. -/
def after (o : Host.Outcome State Fault Refusal) : State :=
  match o with
  | .next t => t
  | .fault _ | .refused _ => State.reset

/-- `o` is a next state. -/
def isNext (o : Host.Outcome State Fault Refusal) : Bool :=
  match o with
  | .next _ => true
  | .fault _ | .refused _ => false

theorem eq_next_after {o : Host.Outcome State Fault Refusal} (h : isNext o = true) : o = .next (after o) := by
  cases o with
  | next t => rfl
  | fault r => cases h
  | refused r => cases h

/-- An access that has no step. -/
def isRefused (o : Host.Outcome State Fault Refusal) (a : Word) (n : Nat) : Bool :=
  match o with
  | .refused (.accessOutsideInterface b m) => b == a && m == n
  | .refused (.notModelled _) | .next _ | .fault _ => false

/-- The palette of EDR's section 8 as 95_test_vectors.md writes it: black, white, transparent, red, then zeros. -/
def paletteOfSection8 : Vector Word 16 :=
  #v[0xFF000000, 0xFFFFFFFF, 0x00FF00FF, 0xFF0000FF, 0, 0, 0, 0, 0, 0, 0, 0, 0, 0, 0, 0]

/-- The palette PALETTE[i] = 0xFF000000 + 0x111111 * i of V40. -/
def greyPalette : Vector Word 16 :=
  #v[0xFF000000, 0xFF111111, 0xFF222222, 0xFF333333, 0xFF444444, 0xFF555555, 0xFF666666, 0xFF777777,
     0xFF888888, 0xFF999999, 0xFFAAAAAA, 0xFFBBBBBB, 0xFFCCCCCC, 0xFFDDDDDD, 0xFFEEEEEE, 0xFFFFFFFF]

/-- A device with `n` bytes of OUT. -/
def deviceOut (n : Nat) : Params := { Config.device with outBytes := n }

/-- IDLE, with PSIZE = 4, the palette of section 8, and these words in IN; ARG0 is their number. -/
def idleWith (d : Params) (ws : List Word) : State :=
  { State.resetWith d [] [] 0 0 with
    psize := 4, palette := paletteOfSection8, inMem := inImage 0 ws, arg0 := BitVec.ofNat 32 ws.length }

/-- IDLE, ready for CONFIGURE: W, H, S, P = 4 and QUANTUM = 10. -/
def configurableWith (d : Params) (w h sc : BitVec 16) : State :=
  { idleWith d [] with width := w, height := h, scale := sc, quantum := 10 }

/-- ACCUMULATING, with P = 4, QUANTUM = 10 and these frames of W by H pixels; OUT holds one byte. -/
def accumulating (d : Params) (w h sc q : BitVec 16) (frames : List (List Nat)) : State :=
  { State.resetWith d [] [] 0 0 with
    phase := .accumulating
    session := ⟨w, h, sc, .four, q, [0xFF000000, 0xFFFFFFFF, 0x00FF00FF, 0xFF0000FF]⟩
    frames := frames
    out := { cells := [(0, 0x47)], len := 1, epoch := 0 } }

/-- Two frames of 3 by 2 pixels that differ at (1, 0) and (2, 1) (V44). -/
def twoFrames : State := accumulating Config.device 3 2 1 10 [[0, 0, 0, 0, 0, 0], [0, 1, 0, 0, 0, 3]]

/-- FAULT with code ILLEGAL_COMMAND. -/
def faulted : State := raiseFault .illegalCommand (idleWith Config.device [])

/-! ## Ill-formed terms -/

theorem test_params_wf : Config.device.wf = true := by decide

theorem test_params_no_in_words_ill_formed : ({ Config.device with inWords := 0 } : Params).wf = false := by decide

theorem test_params_in_words_above_window_ill_formed :
    ({ Config.device with inWords := 2 ^ 22 + 1 } : Params).wf = false := by decide

theorem test_params_no_out_bytes_ill_formed : (deviceOut 0).wf = false := by decide

theorem test_params_out_bytes_above_window_ill_formed : (deviceOut (2 ^ 24 + 1)).wf = false := by decide

theorem test_params_no_frames_ill_formed : ({ Config.device with maxFrames := 0 } : Params).wf = false := by decide

theorem test_halfword_read_ill_formed : (HostEvent.read 0x004 2).wf = false := by decide

theorem test_misaligned_write_ill_formed : (HostEvent.write 0x01000002 4 0).wf = false := by decide

theorem test_misaligned_reference_ill_formed : (ScriptLine.rd (.addr 0x00E)).wf = false := by decide

theorem test_misaligned_expect_ill_formed : (ScriptLine.expect (.addr 0x001) 0).wf = false := by decide

theorem test_misaligned_wr_ill_formed : (ScriptLine.wr (.addr 0x003) 0).wf = false := by decide

/-- The first index whose address, 0x01000000 + 4i, needs 33 bits; the one before it is well formed. -/
theorem test_wrin_past_the_bus_ill_formed :
    (ScriptLine.wrin 0x3FC00000 0).wf = false ∧ (ScriptLine.wrin 0x3FBFFFFF 0).wf = true := by decide

theorem test_rdout_past_the_bus_ill_formed :
    (ScriptLine.rdout 0x3F800000).wf = false ∧ (ScriptLine.rdout 0x3F7FFFFF).wf = true := by decide

theorem test_loadin_times_past_the_bus_ill_formed : (ScriptLine.loadinTimes 0 0x3FC00001).wf = false := by decide

/-- The bound of a listed LOADIN, without building such a list. -/
theorem test_loadin_past_the_bus_ill_formed (vs : List Word) (h : vs.length = 0x3FC00001) :
    (ScriptLine.loadin vs).wf = false := by simp [ScriptLine.wf, h, inBase]

theorem test_setpal_seventeen_ill_formed : (ScriptLine.setpal (List.replicate 17 0)).wf = false := by decide

/-! ## Command words, bit by bit (30_encoding.md R111, R112, R116; V50) -/

theorem test_decode_nop : decode 0b00000000000000000000000000000000#32 = .ok .nop := by decide

theorem test_decode_soft_reset : decode 0b00000001000000000000000000000000#32 = .ok .softReset := by decide

theorem test_decode_configure : decode 0b00010000000000000000000000000000#32 = .ok .configure := by decide

theorem test_decode_add_frame : decode 0b00010001000000000000000000000000#32 = .ok .addFrame := by decide

theorem test_decode_finish : decode 0b00010010000000000000000000000000#32 = .ok .finish := by decide

theorem test_decode_diff_rect : decode 0b00010011000000000000000000000000#32 = .ok .diffRect := by decide

theorem test_decode_lzw_encode : decode 0b00100000000000000000000000000000#32 = .ok .lzwEncode := by decide

theorem test_decode_hash_init : decode 0b00110000000000000000000000000000#32 = .ok .hashInit := by decide

theorem test_decode_hash_extend : decode 0b00110001000000000000000000000000#32 = .ok .hashExtend := by decide

theorem test_decode_hash_seq : decode 0b00110010000000000000000000000000#32 = .ok .hashSeq := by decide

theorem test_decode_low_reserved_bit : decode 0x00000001 = .error (.reservedBits 1) := by decide

theorem test_decode_high_reserved_bit : decode 0x10800000 = .error (.reservedBits 0x800000) := by decide

theorem test_decode_unknown_opcode : decode 0xFF000000 = .error (.unknownOpcode 0xFF) := by decide

/-- The decoder's reading of the table's words, and of a word above the table's. -/
theorem test_table_words :
    decodeTableWord 32 0x12000000 = some .finish ∧ decodeTableWord 32 0x14000000 = none := by decide

/-- A placed word is the first thing that runs: HASH_INIT after a HASH of 5. -/
theorem test_placed_word_runs :
    (after (step (State.withFetchWord { State.reset with hash := 5 } 32 0x30000000))).hash = 487 := by decide

/-! ## Vectors, one command each -/

/-- V50, row 1. -/
theorem test_nop_in_fault : exec .nop faulted = .next faulted := rfl

/-- P1's end: SOFT_RESET leaves FAULT, and PSIZE is 16 again. -/
theorem test_soft_reset_leaves_fault :
    (after (exec .softReset faulted)).status = 0 ∧ (after (exec .softReset faulted)).psize = 16 := by decide

/-- V7, first three lines: the 44 bytes of the header. -/
theorem test_configure_header :
    (after (exec .configure (configurableWith Config.device 2 2 1))).outBytes =
      [0x47, 0x49, 0x46, 0x38, 0x39, 0x61, 0x02, 0x00, 0x02, 0x00, 0x99, 0x00, 0x00,
       0x00, 0x00, 0x00, 0xFF, 0xFF, 0xFF, 0xFF, 0x00, 0xFF, 0xFF, 0x00, 0x00,
       0x21, 0xFF, 0x0B, 0x4E, 0x45, 0x54, 0x53, 0x43, 0x41, 0x50, 0x45, 0x32, 0x2E, 0x30,
       0x03, 0x01, 0x00, 0x00, 0x00] := by decide +kernel

/-- V40, last row: W = 2, H = 1, S = 40000; the LSD begins 80 38 40 9C 99. -/
theorem test_configure_scaled_size_wraps :
    ((after (exec .configure (configurableWith Config.device 2 1 40000))).outBytes.drop 6).take 5 =
      [0x80, 0x38, 0x40, 0x9C, 0x99] := by decide +kernel

/-- V42: BLACK, WHITE, GREEN, RED store 0, 1, 8, 3. -/
theorem test_add_frame_lookup :
    (after (exec .addFrame { accumulating Config.device 2 2 1 10 [] with
      arg0 := 4, inMem := inImage 0 [0xFF000000, 0xFFFFFFFF, 0xFF00FF00, 0xFF0000FF] })).frames =
      [[0, 1, 8, 3]] := by decide

/-- V43: with a full store, a wrong count is still DIMENSION (STATUS 0x0403). -/
theorem test_add_frame_dimension_first :
    (after (exec .addFrame { accumulating { Config.device with maxFrames := 1 } 2 2 1 10 [[0, 0, 0, 0]] with
      arg0 := 3 })).status = 0x0403 := by decide

/-- V46: one 1 by 1 frame of index 2, S = 3, Q = 7; what FINISH appends. -/
theorem test_finish_scales :
    (after (exec .finish (accumulating Config.device 1 1 3 7 [[2]]))).outBytes.drop 1 =
      [0x21, 0xF9, 0x04, 0x04, 0x07, 0x00, 0x00, 0x00, 0x2C, 0x00, 0x00, 0x00, 0x00, 0x03, 0x00, 0x03, 0x00, 0x00,
       0x02, 0x03, 0x94, 0x7F, 0x05, 0x00, 0x3B] := by decide +kernel

/-- V3: three equal frames with Q = 30000 are one emission with delay 90000 mod 2^16 = 0x5F90. -/
theorem test_finish_coalesces :
    (after (exec .finish (accumulating Config.device 1 1 1 30000 [[0], [0], [0]]))).outBytes.drop 1 =
      [0x21, 0xF9, 0x04, 0x04, 0x90, 0x5F, 0x00, 0x00, 0x2C, 0x00, 0x00, 0x00, 0x00, 0x01, 0x00, 0x01, 0x00, 0x00,
       0x02, 0x02, 0x44, 0x01, 0x00, 0x3B] := by decide +kernel

/-- V44, row 1. -/
theorem test_diff_rect :
    (after (exec .diffRect { twoFrames with arg1 := 1 })).rectXY = 0x00000001 ∧
      (after (exec .diffRect { twoFrames with arg1 := 1 })).rectWH = 0x00020002 := by decide

/-- V44, row 5: the whole frame. -/
theorem test_diff_rect_whole_frame :
    (after (exec .diffRect { accumulating Config.device 3 2 1 10 [[1, 0, 0, 0, 0, 0], [0, 0, 0, 0, 0, 2]] with
      arg1 := 1 })).rectWH = 0x00020003 := by decide

/-- V10: 0, 1 four times, P = 4. -/
theorem test_lzw_encode_stream :
    (after (exec .lzwEncode (idleWith Config.device [0, 1, 0, 1, 0, 1, 0, 1]))).outBytes =
      [0x02, 0x03, 0x44, 0x8C, 0x51, 0x00] := by decide +kernel

/-- V13, row 3: 0, 8, 0 with P = 4 ends with STATUS = 0x0603. -/
theorem test_lzw_encode_symbol_range :
    (after (exec .lzwEncode (idleWith Config.device [0, 8, 0]))).status = 0x0603 := by decide +kernel

/-- V30, row 1. -/
theorem test_hash_init : (after (exec .hashInit { State.reset with hash := 0 })).hash = 487 := by decide

/-- V30, last row: the item 0xFFFFFFFF. -/
theorem test_hash_extend_wraps :
    (after (exec .hashExtend { State.reset with arg0 := 0xFFFFFFFF })).hash = 15096 := by decide

/-- V30: 15 six times, wrapped. -/
theorem test_hash_seq :
    (after (exec .hashSeq (idleWith Config.device [15, 15, 15, 15, 15, 15]))).hash = 0xBC6DD647 := by decide

/-- V31: 65 words of 64 are IN_RANGE. -/
theorem test_hash_seq_in_range :
    (after (exec .hashSeq { State.reset with arg0 := 65 })).status = 0x0703 := by decide

/-! ## The compressor's parts, and the bus -/

/-- V11: the packed bits of (4,3) (0,3) (6,3) (0,3) (5,3), worked by hand there. -/
theorem test_pack : pack [⟨4, 3⟩, ⟨0, 3⟩, ⟨6, 3⟩, ⟨0, 3⟩, ⟨5, 3⟩] = [0x84, 0x51] := by decide

/-- V10, 0 twenty-four times: the codes, with the width growth to 4. -/
theorem test_codes :
    lzwCodes Config.device .four (List.replicate 24 0) =
      .ok [⟨4, 3⟩, ⟨0, 3⟩, ⟨6, 3⟩, ⟨7, 3⟩, ⟨8, 4⟩, ⟨9, 4⟩, ⟨10, 4⟩, ⟨7, 4⟩, ⟨5, 4⟩] := by decide +kernel

/-- V12: with LZW_FINAL_GROWTH the last two codes are (6,4) (5,5), and the stream is one byte longer. -/
theorem test_final_growth :
    lzwStream { Config.device with finalGrowth := true } .four [0, 0, 0, 1, 3, 3, 0, 0, 0, 1, 0, 1, 2, 0, 0] =
      .ok [0x02, 0x07, 0x84, 0x33, 0x63, 0x10, 0x2C, 0x56, 0x00, 0x00] := by decide +kernel

/-- V23's shape (41_lzw.md R219): 255 bytes end without a terminator, 256 do not. -/
theorem test_sub_block_boundary :
    (subBlocks false (List.replicate 255 1)).length = 256 ∧ (subBlocks true (List.replicate 255 1)).length = 257 ∧
      (subBlocks false (List.replicate 256 1)).length = 259 := by decide +kernel

/-- V51: CMD and reserved offsets read 0; WIDTH keeps 16 bits, PSIZE 5. -/
theorem test_bus_registers :
    memRead twoFrames 0x008 = 0 ∧ memRead twoFrames 0x04C = 0 ∧ memRead twoFrames 0x03000000 = 0 ∧
      memRead (after (memWrite twoFrames 0x014 0xFFFFFFFF)) 0x014 = 0x0000FFFF ∧
      memRead (after (memWrite twoFrames 0x020 0xFF)) 0x020 = 0x1F := by decide

/-- P3: RDOUT 0 returns 0x38464947 for a stream that begins "GIF8". -/
theorem test_out_window_is_little_endian :
    memRead { State.reset with
      out := { cells := [(0, 0x47), (1, 0x49), (2, 0x46), (3, 0x38)], len := 4, epoch := 0 } } 0x02000000 =
      0x38464947 := by decide

/-- V51: a 16-bit access and a misaligned one are refused. -/
theorem test_bus_refuses :
    isRefused (hostEvent (.read 0x004 2) State.reset) 0x004 2 = true ∧
      isRefused (hostEvent (.write 0x006 4 0) State.reset) 0x006 4 = true := by decide

/-- The expansion of RUN (30_encoding.md R127) and of LOADIN v x n (R128). -/
theorem test_script_lines :
    (ScriptLine.run .hashExtend 1 none).events = [.write 0x00C 4 1, .write 0x008 4 0x31000000] ∧
      (ScriptLine.loadinTimes 7 2).events = [.write 0x01000000 4 7, .write 0x01000004 4 7] := by decide

/-! ## Witnesses: for each obligation with hypotheses, a case that meets them, each clause at a boundary -/

/-! ### The step and the host bus -/

theorem witness_StepRunsTheDecodedCommand :
    (State.reset.setScript [.write 0x008 4 0x10000000]).script = .write 0x008#32 4 0x10000000 :: [] ∧
      decode 0x10000000 = .ok .configure := by decide

theorem witness_StepPerformsTheNextTransaction_read :
    (0xFFFFFFFC#32).toNat % 4 = 0 ∧ (twoFrames.setScript [.read 0xFFFFFFFC 4]).script = .read 0xFFFFFFFC 4 :: [] := by
  decide

theorem witness_StepPerformsTheNextTransaction_write :
    (0x004#32).toNat % 4 = 0 ∧ (0x004 : Word) ≠ 0x008#32 ∧
      (twoFrames.setScript [.write 0x004 4 1]).script = .write 0x004 4 1 :: [] := by decide

theorem witness_StepPerformsTheNextTransaction_reset_and_idle :
    (faulted.setScript [.reset]).script = .reset :: [] ∧ State.reset.script = [] := by decide

theorem witness_AccessOutsideTheInterfaceHasNoStep :
    ((2 : Nat) ≠ 4 ∨ (0x004#32).toNat % 4 ≠ 0) ∧ ((4 : Nat) ≠ 4 ∨ (0x006#32).toNat % 4 ≠ 0) ∧
      (State.reset.setScript [.read 0x004 2]).script = .read 0x004 2 :: [] ∧
      (State.reset.setScript [.write 0x006 4 0]).script = .write 0x006 4 0 :: [] := by decide

theorem witness_EveryScriptRunsToItsEnd :
    ∀ e ∈ (State.reset.setScript [.write 0x0BC 4 5, .read 0x01000000 4, .reset]).script, e.wf = true := by decide

theorem witness_ScriptLinesDoWhatTheyExpandTo :
    State.reset.dev.wf = true ∧ (List.replicate 64 (5 : Word)).length ≤ State.reset.dev.inWords ∧
      (List.replicate 16 (5 : Word)).length ≤ 16 := by decide

/-! ### Encoding -/

theorem witness_IllegalWordsRaiseIllegalCommand_opcode :
    (0x33000000#32).toNat / 2 ^ 24 ∉ [0x00, 0x01, 0x10, 0x11, 0x12, 0x13, 0x20, 0x30, 0x31, 0x32] ∧
      twoFrames.phase ≠ .fault := by decide

theorem witness_IllegalWordsRaiseIllegalCommand_reserved :
    (0x01000001#32).toNat % 2 ^ 24 ≠ 0 ∧ faulted.phase = .fault := by decide

/-! ### Registers and address map -/

theorem witness_RegisterWriteSetsItsUsedBits : Reg.pal 15 ≠ .pal 0 := by decide

theorem witness_RegistersAnswerAtTheirOffsets : Reg.status ≠ .cmd := by decide

/-- The ends of each range of the statement, on a device of 64 words of IN and 4096 bytes of OUT. -/
theorem witness_UnmappedAddressesReadZeroAndIgnoreWrites :
    State.reset.dev.wf = true ∧
      ∀ a ∈ [0x04C, 0x07C, 0x0C0, 0x00FFFFFC, 0x01000000 + 4 * 64, 0x01FFFFFC, 0x02000000 + 4096, 0xFFFFFFFC],
        (BitVec.ofNat 32 a).toNat % 4 = 0 ∧
          (0x04C ≤ a ∧ a < 0x080 ∨ 0x0C0 ≤ a ∧ a < 0x01000000 ∨
            0x01000000 + 4 * State.reset.dev.inWords ≤ a ∧ a < 0x02000000 ∨
            0x02000000 + State.reset.dev.outBytes ≤ a) := by decide

theorem witness_UnmappedAddressesReadZeroAndIgnoreWrites_out_window :
    (0x02000000#32).toNat % 4 = 0 ∧ 0x02000000 ≤ (0x02000000#32).toNat := by decide

theorem witness_CapabilityRegistersAreConstant : ∃ t, step (twoFrames.setScript [.reset]) = .next t := ⟨_, rfl⟩

theorem witness_InWordReadsBackAsWritten :
    State.reset.dev.wf = true ∧ 0 < State.reset.dev.inWords ∧ 63 < State.reset.dev.inWords := by decide

/-- A device with 79 bytes of OUT: word 19 holds byte 79, which reads 0. -/
theorem witness_OutWindowReadsBytesLittleEndian :
    (deviceOut 79).wf = true ∧ 4 * 19 < (deviceOut 79).outBytes ∧ (deviceOut 79).outBytes ≤ 4 * 19 + 3 := by decide

/-! ### Reset, faults and the state machine -/

theorem witness_StateMachineFollowsItsEdges :
    (∃ t, step (faulted.setScript [.write 0x008 4 0x01000000]) = .next t) ∧
      (faulted.setScript [.write 0x008 4 0x01000000]).resetsNext = true ∧
      (∃ t, step (twoFrames.setScript [.write 0x008 4 0x12000000]) = .next t) ∧
      (twoFrames.setScript [.write 0x008 4 0x12000000]).resetsNext = false :=
  ⟨⟨_, rfl⟩, by decide, ⟨_, rfl⟩, by decide⟩

theorem witness_FaultIgnoresEveryWordButSoftReset :
    faulted.phase = .fault ∧ (0x01000001 : Word) ≠ 0x01000000#32 ∧ (0x00C : Word) ≠ 0x008#32 := by decide

theorem witness_BadStateExactlyWhereTheTableForbids :
    let forbidden :=
      [(Instr.configure, Phase.accumulating), (.configure, .finalized), (.addFrame, .idle), (.addFrame, .finalized),
        (.finish, .idle), (.finish, .finalized), (.diffRect, .idle), (.lzwEncode, .accumulating),
        (.lzwEncode, .finalized)]
    (Instr.diffRect, State.reset.phase) ∈ forbidden ∧ faulted.phase = .fault ∧ Instr.nop ≠ .softReset ∧
      (Instr.diffRect, twoFrames.phase) ∉ forbidden ∧ twoFrames.phase ≠ .fault ∧ twoFrames.faultCode = .noFault ∧
      isNext (exec .diffRect twoFrames) = true := by decide

/-- An operand fault. -/
theorem witness_FaultChangesOnlyStatusAndOut_operand :
    let s := { twoFrames with arg0 := 2 }
    s.Inv ∧ s.phase ≠ .fault ∧ isNext (exec .diffRect s) = true ∧ (after (exec .diffRect s)).phase = .fault ∧
      (after (exec .diffRect s)).faultCode = .frameIndex ∧ Instr.diffRect ≠ .configure := by decide

/-- A fault of a command that is running: the header needs 44 bytes. -/
theorem witness_FaultChangesOnlyStatusAndOut_running :
    let s := configurableWith (deviceOut 43) 2 2 1
    s.Inv ∧ s.phase ≠ .fault ∧ isNext (exec .configure s) = true ∧ (after (exec .configure s)).phase = .fault ∧
      (after (exec .configure s)).faultCode = .outOverflow := by decide +kernel

theorem witness_CommandsNeverWriteTheirOperands :
    Instr.finish ≠ .softReset ∧ isNext (exec .finish twoFrames) = true := by decide +kernel

/-- LZW_ENCODE where OUT held another first byte, and another length. -/
theorem witness_OutChangesOnlyThroughItsWriters :
    let s := { (idleWith Config.device [0]).setScript [.write 0x008 4 0x20000000] with
      out := { cells := [(0, 1)], len := 1, epoch := 0 } }
    isNext (step s) = true ∧ s.resetsNext = false ∧ (after (step s)).outByte 0 ≠ s.outByte 0 ∧
      readReg (after (step s)) .outlen ≠ readReg s .outlen := by decide +kernel

/-! ### The hash unit -/

theorem witness_HashCommandsRun : State.reset.phase ≠ .fault ∧ twoFrames.phase ≠ .fault := by decide

theorem witness_HashSeqFoldsTheInWords :
    let s := State.reset
    s.phase ≠ .fault ∧ s.dev.inWords < ({ s with arg0 := 65 } : State).arg0.toNat ∧
      ({ s with arg0 := 64 } : State).arg0.toNat ≤ s.dev.inWords := by decide

/-- The states HASH_EXTEND goes through for IN = 1, 2. -/
def hashTrace (s : State) : Nat → State
  | 0 => s
  | k + 1 => after (exec .hashExtend { hashTrace s k with arg0 := s.inWord k })

theorem witness_HashSeqEqualsRepeatedHashExtend :
    let s := idleWith Config.device [1, 2]
    s.phase ≠ .fault ∧ s.arg0.toNat = 2 ∧ s.arg0.toNat ≤ s.dev.inWords ∧ hashTrace s 0 = s ∧
      ∀ k, k < s.arg0.toNat → exec .hashExtend { hashTrace s k with arg0 := s.inWord k } = .next (hashTrace s (k + 1)) :=
  ⟨by decide, by decide, by decide, rfl, fun k hk => by
    have h : k < 2 := hk
    interval_cases k <;> rfl⟩

theorem witness_ShortSequencesHashApart :
    let u := [30, 0, 30, 30]
    (∀ x ∈ u, x < 31) ∧ u.length ≤ 4 ∧ hashFrom hashInitial u = hashFrom hashInitial u := by decide

theorem witness_HashCommandsLeaveTheContainerAlone :
    isNext (exec .hashExtend twoFrames) = true ∧ isNext (exec .hashSeq { twoFrames with arg0 := 65 }) = true := by
  decide

/-! ### The compressor -/

theorem witness_CompressorAcceptsPaletteSymbols :
    [0, 3, 3] ≠ [] ∧ ∀ x ∈ [0, 3, 3], x < PaletteSize.four.toNat := by decide

theorem witness_ExactKeysFaultOnForeignSymbols :
    ({ Config.device with dictKey := .exactSeq } : Params).dictKey = .exactSeq ∧
      ∃ x ∈ [0, 4], PaletteSize.four.toNat ≤ x := by decide

/-- V10, rows 5 of P = 4 and 1 of P = 16: for the statements about the codes of a run that succeeds. -/
theorem witness_CodesOfARun :
    lzwCodes Config.device .four [0, 1, 2, 3] = .ok [⟨4, 3⟩, ⟨0, 3⟩, ⟨1, 3⟩, ⟨2, 3⟩, ⟨3, 4⟩, ⟨5, 4⟩] ∧
      lzwStream Config.device .four [0, 1, 2, 3] = .ok [0x02, 0x03, 0x44, 0x34, 0x05, 0x00] ∧
      (∀ x ∈ [0, 1, 2, 3], x < PaletteSize.four.toNat) ∧
      lzwCodes Config.device .sixteen [0] = .ok [⟨16, 5⟩, ⟨0, 5⟩, ⟨17, 5⟩] ∧ Config.device.finalGrowth = false := by
  decide +kernel

theorem witness_CodesOfAnExactRun :
    lzwCodes { Config.device with dictKey := .exactSeq } .four [0, 1] = .ok [⟨4, 3⟩, ⟨0, 3⟩, ⟨1, 3⟩, ⟨5, 3⟩] := by
  decide +kernel

/-- The sequences of the input 0, 1 and the palette's symbols: their hashes differ. -/
theorem witness_HashKeysAgreeWithExactKeys (u v : List Nat) (hu : u ≠ []) (hv : v ≠ [])
    (hu' : u <:+: [0, 1] ∨ ∃ i, i < PaletteSize.four.toNat ∧ u = [i])
    (hv' : v <:+: [0, 1] ∨ ∃ i, i < PaletteSize.four.toNat ∧ v = [i])
    (h : hashFrom hashInitial u = hashFrom hashInitial v) : u = v := by
  have listed : ∀ w : List Nat, w ≠ [] → (w <:+: [0, 1] ∨ ∃ i, i < PaletteSize.four.toNat ∧ w = [i]) →
      w ∈ [[0], [1], [2], [3], [0, 1]] := by
    intro w hw hc
    rcases hc with hc | ⟨i, hi, rfl⟩
    · have hm := List.mem_sublists.mpr hc.sublist
      have hl : ∀ x ∈ List.sublists [0, 1], x ≠ [] → x ∈ [[0], [1], [2], [3], [0, 1]] := by decide
      exact hl w hm hw
    · have hi : i < 4 := hi
      interval_cases i <;> decide
  have apart : ∀ x ∈ [[0], [1], [2], [3], [0, 1]], ∀ y ∈ [[0], [1], [2], [3], [0, 1]],
      hashFrom hashInitial x = hashFrom hashInitial y → x = y := by decide
  exact apart u (listed u hu hu') v (listed v hv hv') h

/-- V12: the run of the default setting in the case where the settings differ. -/
theorem witness_FinalGrowthAddsAtMostOneZeroByte :
    lzwCodes { Config.device with finalGrowth := false } .four [0, 0, 0, 1, 3, 3, 0, 0, 0, 1, 0, 1, 2, 0, 0] =
      .ok [⟨4, 3⟩, ⟨0, 3⟩, ⟨6, 3⟩, ⟨1, 3⟩, ⟨3, 4⟩, ⟨3, 4⟩, ⟨6, 4⟩, ⟨0, 4⟩, ⟨1, 4⟩, ⟨12, 4⟩, ⟨2, 4⟩, ⟨6, 4⟩, ⟨5, 4⟩] := by
  decide +kernel

/-- The stream fits exactly: OUT has its five bytes. -/
theorem witness_LzwEncodeReplacesOutByTheStream :
    let s := idleWith (deviceOut 5) [0, 0, 0, 0]
    s.dev.wf = true ∧ s.phase = .idle ∧ s.psize.toNat = PaletteSize.four.toNat ∧ s.arg0.toNat ≠ 0 ∧
      s.arg0.toNat ≤ s.dev.inWords ∧
      lzwStream s.dev .four ((List.range s.arg0.toNat).map fun i => (s.inWord i).toNat) =
        .ok [0x02, 0x02, 0x84, 0x51, 0x00] ∧ 5 ≤ s.dev.outBytes := by decide +kernel

/-- V14, in the rule's order. -/
theorem witness_LzwEncodeFaultsInOrder_operands :
    let s := idleWith Config.device []
    s.phase = .idle ∧ ({ s with psize := 5 } : State).psize.toNat ∉ [4, 8, 16] ∧ s.psize.toNat ∈ [4, 8, 16] ∧
      s.arg0.toNat = 0 ∧ s.dev.inWords < ({ s with arg0 := 65 } : State).arg0.toNat := by decide

theorem witness_LzwEncodeFaultsInOrder_running :
    let s := idleWith (deviceOut 4) [0, 0, 0, 0]
    let f := idleWith Config.device [4]
    s.phase = .idle ∧ s.dev.wf = true ∧ s.psize.toNat = PaletteSize.four.toNat ∧ s.arg0.toNat ≠ 0 ∧
      s.arg0.toNat ≤ s.dev.inWords ∧
      lzwStream s.dev .four ((List.range s.arg0.toNat).map fun i => (s.inWord i).toNat) =
        .ok [0x02, 0x02, 0x84, 0x51, 0x00] ∧ s.dev.outBytes < 5 ∧
      f.phase = .idle ∧ f.psize.toNat = PaletteSize.four.toNat ∧ f.arg0.toNat ≠ 0 ∧ f.arg0.toNat ≤ f.dev.inWords ∧
      lzwCodes f.dev .four ((List.range f.arg0.toNat).map fun i => (f.inWord i).toNat) = .error .symbolRange := by
  decide +kernel

theorem witness_LzwEncodeCompletesOnPaletteSymbols :
    let s := idleWith (deviceOut 15) [0, 3]
    s.dev.wf = true ∧ s.phase = .idle ∧ s.psize.toNat = PaletteSize.four.toNat ∧ s.arg0.toNat ≠ 0 ∧
      s.arg0.toNat ≤ s.dev.inWords ∧ (∀ i, i < s.arg0.toNat → (s.inWord i).toNat < PaletteSize.four.toNat) ∧
      4 * s.arg0.toNat + 7 ≤ s.dev.outBytes := by decide

/-! ### The container -/

/-- As many pixels as IN has words, and OUT as long as the header. -/
theorem witness_ConfigureLatchesAndWritesTheHeader :
    let s := configurableWith (deviceOut 44) 8 8 1
    s.dev.wf = true ∧ s.phase = .idle ∧ s.psize.toNat = PaletteSize.four.toNat ∧ s.width ≠ 0 ∧ s.height ≠ 0 ∧
      s.scale ≠ 0 ∧ s.width.toNat * s.height.toNat ≤ s.dev.inWords ∧
      (s.palette.toList.take PaletteSize.four.toNat).Nodup ∧
      32 + 3 * PaletteSize.four.toNat ≤ s.dev.outBytes := by decide

/-- V41: each refused configuration, from an accepted one. -/
theorem witness_ConfigureRefusesBadConfigurations :
    let s := configurableWith Config.device 2 2 1
    s.phase = .idle ∧ ({ s with psize := 5 } : State).psize.toNat ∉ [4, 8, 16] ∧
      ({ s with width := 0 } : State).width = 0 ∧
      s.dev.inWords < (9 : BitVec 16).toNat * (8 : BitVec 16).toNat ∧
      (let s := { s with psize := 16 }
        ∃ i ∈ List.range 16, ∃ j ∈ List.range 16, i < j ∧ j < s.psize.toNat ∧ j < 16 ∧
          s.palette.toList[i]? = s.palette.toList[j]?) := by decide +kernel

/-- V41, last item: the 80 bytes of the header, and 79 of OUT. -/
theorem witness_ConfigureRefusesBadConfigurations_overflow :
    let s := { configurableWith (deviceOut 79) 1 1 1 with psize := 16, palette := greyPalette }
    s.phase = .idle ∧ s.psize.toNat ∈ [4, 8, 16] ∧ s.width ≠ 0 ∧ s.height ≠ 0 ∧ s.scale ≠ 0 ∧
      s.width.toNat * s.height.toNat ≤ s.dev.inWords ∧ (s.palette.toList.take s.psize.toNat).Nodup ∧
      s.dev.wf = true ∧ s.dev.outBytes < 32 + 3 * s.psize.toNat := by decide +kernel

/-- Room for one frame more, a wrong count, and none. -/
theorem witness_AddFrameStoresTheLookedUpPixels :
    let s := { accumulating { Config.device with maxFrames := 3 } 3 2 1 10 [[0, 0, 0, 0, 0, 0], [0, 1, 0, 0, 0, 3]] with
      arg0 := 6 }
    let f := { accumulating { Config.device with maxFrames := 1 } 3 2 1 10 [[0, 0, 0, 0, 0, 0]] with arg0 := 6 }
    s.phase = .accumulating ∧ s.arg0.toNat = s.session.width.toNat * s.session.height.toNat ∧
      s.frames.length < s.dev.maxFrames ∧
      ({ s with arg0 := 5 } : State).arg0.toNat ≠ s.session.width.toNat * s.session.height.toNat ∧
      f.phase = .accumulating ∧ f.arg0.toNat = f.session.width.toNat * f.session.height.toNat ∧
      f.frames.length = f.dev.maxFrames := by decide

theorem witness_LookupFindsTheEntryOrTheSentinel :
    let palette : List Word := [0xFF000000, 0xFFFFFFFF]
    palette.Nodup ∧ palette[1]? = some 0xFFFFFFFF ∧ (0x00000000 : Word) ∉ palette := by decide

/-- Two frames that differ, and one compared with itself. -/
theorem witness_DiffRectReportsTheMinimalRectangle :
    let s := { twoFrames with arg1 := 1 }
    let e := { twoFrames with arg0 := 1, arg1 := 1 }
    (s.phase = .accumulating ∨ s.phase = .finalized) ∧ s.arg0.toNat < s.frames.length ∧
      s.arg1.toNat < s.frames.length ∧
      (2 < s.session.width.toNat ∧ 1 < s.session.height.toNat ∧
        (s.frames.getD s.arg0.toNat []).getD (1 * s.session.width.toNat + 2) 0 ≠
          (s.frames.getD s.arg1.toNat []).getD (1 * s.session.width.toNat + 2) 0) ∧
      e.arg0.toNat < e.frames.length ∧ e.arg0 = e.arg1 := by decide

theorem witness_DiffRectIndexFaultAndSymmetry :
    let s := { twoFrames with arg1 := 2 }
    let e := { twoFrames with arg0 := 1, arg1 := 1 }
    s.phase = .accumulating ∧ s.frames.length ≤ s.arg1.toNat ∧ e.arg0 = e.arg1 ∧ e.arg0.toNat < e.frames.length ∧
      isNext (exec .diffRect { twoFrames with arg1 := 1 }) = true := by decide

theorem witness_ExtractReadsTheScaledRectangle : 1 ≤ 2 ∧ 1 ≤ 3 ∧ 35 < 2 * 2 * 3 ^ 2 := by decide

/-- The invariant of a session with two frames, which the statements about FINISH and about every step assume. -/
theorem witness_invariant_of_a_session :
    twoFrames.Inv ∧ twoFrames.phase = .accumulating ∧ (after (exec .finish twoFrames)).phase = .finalized := by
  decide +kernel

/-- V46's payload: one triple of 24 bytes, and room for it, the byte that OUT holds, and the trailer. -/
theorem witness_FinishAppendsOneTriplePerRun :
    let s := accumulating (deviceOut 26) 1 1 3 7 [[2]]
    s.Inv ∧ s.phase = .accumulating ∧
      s.triples none s.emitted = .ok
        [0x21, 0xF9, 0x04, 0x04, 0x07, 0x00, 0x00, 0x00, 0x2C, 0x00, 0x00, 0x00, 0x00, 0x03, 0x00, 0x03, 0x00, 0x00,
         0x02, 0x03, 0x94, 0x7F, 0x05, 0x00] ∧
      (readReg s .outlen).toNat + 24 + 1 ≤ s.dev.outBytes := by decide +kernel

theorem witness_EmittedFramesDifferFromTheLastEmitted :
    twoFrames.Inv ∧ twoFrames.phase = .accumulating ∧ 0 ∈ twoFrames.emitted ∧ 1 ∈ twoFrames.emitted ∧
      ∀ g, 0 < g → g < 1 → g ∉ twoFrames.emitted :=
  ⟨by decide, by decide, by decide, by decide, fun g h1 h2 => by omega⟩

/-- V3's three frames, and room for exactly what they append. -/
theorem witness_EqualFramesAreEmittedOnce :
    let s := accumulating (deviceOut 25) 1 1 1 30000 [[0], [0], [0]]
    s.Inv ∧ s.phase = .accumulating ∧ s.frames = List.replicate (2 + 1) [0] ∧
      lzwStream s.dev s.session.psize
        (extract [0] ⟨0, 0, s.session.width.toNat, s.session.height.toNat⟩ s.session.width.toNat
          s.session.scale.toNat) = .ok [0x02, 0x02, 0x44, 0x01, 0x00] ∧
      (readReg s .outlen).toNat + 5 + 19 ≤ s.dev.outBytes := by decide +kernel

theorem witness_FinishCompletesOnPaletteFrames :
    let s := accumulating (deviceOut 100) 3 2 1 10 [[0, 0, 0, 0, 0, 0], [0, 1, 0, 0, 0, 3]]
    s.Inv ∧ s.phase = .accumulating ∧ (∀ f ∈ s.frames, ∀ x ∈ f, x < s.session.psize.toNat) ∧
      (readReg s .outlen).toNat
        + s.frames.length * (4 * (s.session.width.toNat * s.session.height.toNat * s.session.scale.toNat ^ 2) + 25)
        + 1 ≤ s.dev.outBytes := by decide

/-- A FINISH that meets the sentinel (P7). -/
theorem witness_FinishFaultsOnlyAsTheRuleSays :
    let p7 := accumulating Config.device 2 2 1 10 [[0, 8, 0, 0]]
    p7.Inv ∧ p7.phase = .accumulating ∧ (after (exec .finish p7)).faultCode = .symbolRange := by decide +kernel

/-- A FINISH that lacks one byte of room. -/
theorem witness_FinishFaultsOnlyAsTheRuleSays_overflow :
    let full := accumulating (deviceOut 25) 1 1 3 7 [[2]]
    full.Inv ∧ full.phase = .accumulating ∧ (after (exec .finish full)).faultCode = .outOverflow := by decide +kernel

theorem witness_ConfigurationWritesDoNotReachTheSession :
    isNext (exec .finish twoFrames) = true ∧ isNext (exec .addFrame twoFrames) = true ∧
      isNext (exec .diffRect twoFrames) = true := by decide +kernel

theorem witness_SessionIsUnobservableInIdle : (configurableWith Config.device 2 2 1).phase = .idle := by decide

/-! ### The invariant -/

/-- FINISH, issued in a state that meets the invariant. -/
theorem witness_EveryStepKeepsTheInvariant :
    (twoFrames.setScript [.write 0x008 4 0x12000000]).Inv ∧
      isNext (step (twoFrames.setScript [.write 0x008 4 0x12000000])) = true := by decide +kernel

end Sys2Proof.Tests
end

/-! # State family: the invariant, the register map, and what commands leave alone -/

/-! ## What a running command can raise, and the buffers it builds (60_exceptions.md R293) -/

namespace Sys2Proof.Machine

/-- A computation of a running command ends in a value with `P`, or raises a fault of R293 (b). -/
def RunsTo {β : Type} (P : β → Prop) : Except FaultCode β → Prop
  | .ok b => P b
  | .error e => e.isRunning

theorem RunsTo.ok {β : Type} {P : β → Prop} {x : Except FaultCode β} {b : β} (h : RunsTo P x) (hx : x = .ok b) :
    P b := by
  subst hx; exact h

theorem RunsTo.error {β : Type} {P : β → Prop} {x : Except FaultCode β} {e : FaultCode} (h : RunsTo P x)
    (hx : x = .error e) : e.isRunning := by
  subst hx; exact h

/-- The buffer holds a byte string that fits in `cap` bytes. -/
def OutBuf.Fits (cap : Nat) (b : OutBuf) : Prop := ∃ xs, b.Holds xs ∧ xs.length ≤ cap

theorem OutBuf.fits_clear (cap : Nat) (b : OutBuf) : b.clear.Fits cap := ⟨[], b.holds_clear, Nat.zero_le cap⟩

theorem OutBuf.Fits.redraw {cap : Nat} {b : OutBuf} (h : b.Fits cap) : b.redraw.Fits cap := h

theorem State.OutOk.fits {s : State} (h : s.OutOk) (hr : ¬ s.faultCode.isRunning) : s.out.Fits s.dev.outBytes :=
  ⟨s.outBytes, h.holds hr⟩

theorem State.outOk_of_fits {s : State} (h : s.out.Fits s.dev.outBytes) : s.OutOk := by
  obtain ⟨xs, hh, hle⟩ := h
  exact State.outOk_of_holds hh hle

theorem outAppendAll_runsTo {cap : Nat} {b : OutBuf} (hcap : cap < 2 ^ 32) (hb : b.Fits cap) (ys : List Byte) :
    RunsTo (OutBuf.Fits cap) (outAppendAll cap b ys) := by
  cases h : outAppendAll cap b ys with
  | error e => exact .inr (outAppendAll_error h)
  | ok b' =>
    obtain ⟨xs, hh, hle⟩ := hb
    obtain ⟨hroom, hh'⟩ := outAppendAll_ok_inv hcap hh hle h
    exact ⟨xs ++ ys, hh', by simpa using hroom⟩

/-! ### The compressor raises only SYMBOL_RANGE on a sequence that is not empty -/

theorem codeOf_error {d : Dict} {k : Key} {f : FaultCode} (h : codeOf d k = .error f) : f = .symbolRange := by
  unfold codeOf at h
  split at h <;> cases h
  rfl

theorem Lzw.miss_error {m : DictKey} {p : PaletteSize} {z : Lzw} {x : Nat} {ext : Key} {f : FaultCode}
    (h : z.miss m p x ext = .error f) : f = .symbolRange := by
  unfold Lzw.miss at h
  split at h
  · rename_i hc; cases h; exact codeOf_error hc
  · dsimp only at h
    split at h <;> cases h

theorem Lzw.feed_error {m : DictKey} {p : PaletteSize} {z : Lzw} {x : Nat} {f : FaultCode}
    (h : z.feed m p x = .error f) : f = .symbolRange := by
  unfold Lzw.feed at h
  split at h
  · cases h
  · exact Lzw.miss_error h

theorem Lzw.feedAll_error {m : DictKey} {p : PaletteSize} {f : FaultCode} {xs : List Nat} :
    ∀ {z : Lzw}, z.feedAll m p xs = .error f → f = .symbolRange := by
  induction xs with
  | nil => intro z h; cases h
  | cons x xs ih =>
    intro z h
    unfold Lzw.feedAll at h
    split at h
    · rename_i hx; cases h; exact Lzw.feed_error hx
    · exact ih h

theorem Lzw.close_error {growth : Bool} {p : PaletteSize} {z : Lzw} {f : FaultCode}
    (h : z.close growth p = .error f) : f = .symbolRange := by
  unfold Lzw.close at h
  split at h
  · rename_i hc; cases h; exact codeOf_error hc
  · cases h

theorem lzwCodes_error {d : Params} {p : PaletteSize} {sym : List Nat} {f : FaultCode} (hne : sym ≠ [])
    (h : lzwCodes d p sym = .error f) : f = .symbolRange := by
  cases sym with
  | nil => exact absurd rfl hne
  | cons s0 rest =>
    rw [lzwCodes] at h
    split at h
    · rename_i hf; cases h; exact Lzw.feedAll_error hf
    · exact Lzw.close_error h

theorem lzwStream_error {d : Params} {p : PaletteSize} {sym : List Nat} {f : FaultCode} (hne : sym ≠ [])
    (h : lzwStream d p sym = .error f) : f = .symbolRange := by
  unfold lzwStream at h
  split at h
  · rename_i hc; cases h; exact lzwCodes_error hne hc
  · cases h

/-! ### Rectangles and what is extracted from them -/

/-- A bounding rectangle is never degenerate (40_container.md R165). -/
theorem boundingRect_pos {ds : List (Nat × Nat)} {r : Rect} (h : boundingRect ds = some r) : 1 ≤ r.w ∧ 1 ≤ r.h := by
  cases ds with
  | nil => cases h
  | cons d ds => cases h; simp

theorem finishRect_pos {s : State} (hw : 1 ≤ s.session.width.toNat) (hh : 1 ≤ s.session.height.toNat)
    {last : Option Nat} {f : Nat} {r : Rect} (h : finishRect s last f = some r) : 1 ≤ r.w ∧ 1 ≤ r.h := by
  cases last with
  | none => cases h; exact ⟨hw, hh⟩
  | some e => exact boundingRect_pos h

/-- A rectangle with a pixel in it extracts to at least one index (40_container.md R167). -/
theorem extract_ne_nil (f : List Nat) {r : Rect} (w : Nat) {sc : Nat} (hw : 1 ≤ r.w) (hh : 1 ≤ r.h) (hs : 1 ≤ sc) :
    extract f r w sc ≠ [] := by
  have hpos : 0 < r.h * sc ∧ 0 < r.w * sc := ⟨Nat.mul_pos hh hs, Nat.mul_pos hw hs⟩
  refine List.ne_nil_of_mem (a := pixelAt f w ((r.x * sc + 0) / sc) ((r.y * sc + 0) / sc)) ?_
  exact List.mem_flatMap.mpr ⟨0, List.mem_range.mpr hpos.1, List.mem_map.mpr ⟨0, List.mem_range.mpr hpos.2, rfl⟩⟩

/-! ### FINISH builds a buffer that fits, or raises a running fault (40_container.md R160, R176) -/

section FinishRuns

variable {s : State} (hcap : s.dev.outBytes < 2 ^ 32)
  (hsess : 1 ≤ s.session.width.toNat ∧ 1 ≤ s.session.height.toNat ∧ 1 ≤ s.session.scale.toNat)

include hcap hsess

theorem emitFrame_runsTo (acc f : Nat) {r : Rect} (hr : 1 ≤ r.w ∧ 1 ≤ r.h) {b : OutBuf}
    (hb : b.Fits s.dev.outBytes) : RunsTo (OutBuf.Fits s.dev.outBytes) (emitFrame s acc f r b) := by
  have append {b : OutBuf} (hb : b.Fits s.dev.outBytes) (ys : List Byte) := outAppendAll_runsTo hcap hb ys
  unfold emitFrame
  dsimp only
  split
  · rename_i he; exact (append hb _).error he
  · rename_i b1 h1
    have hb1 := (append hb _).ok h1
    split
    · rename_i he; exact (append hb1 _).error he
    · rename_i b2 h2
      have hb2 := (append hb1 _).ok h2
      split
      · rename_i he; exact .inl (lzwStream_error (extract_ne_nil _ _ hr.1 hr.2 hsess.2.2) he)
      · exact append hb2 _

theorem finishFrame_runsTo (f : Nat) (k : FinishPass) {b : OutBuf} (hb : b.Fits s.dev.outBytes) :
    RunsTo (fun x => x.2.Fits s.dev.outBytes) (finishFrame s f k b) := by
  unfold finishFrame
  dsimp only
  split
  · exact hb
  · split
    · exact hb
    · rename_i r hr
      have hemit := emitFrame_runsTo hcap hsess k.acc f (finishRect_pos hsess.1 hsess.2.1 hr) hb
      split
      · rename_i he; exact hemit.error he
      · rename_i ho; exact hemit.ok ho

theorem finishLoop_runsTo (fs : List Nat) : ∀ (k : FinishPass) {b : OutBuf}, b.Fits s.dev.outBytes →
    RunsTo (OutBuf.Fits s.dev.outBytes) (finishLoop s fs k b) := by
  induction fs with
  | nil => intro k b hb; exact hb
  | cons f fs ih =>
    intro k b hb
    have hframe := finishFrame_runsTo hcap hsess f k hb
    unfold finishLoop
    split
    · rename_i he; exact hframe.error he
    · rename_i k' b' ho; exact ih k' (hframe.ok ho)

theorem finishOut_runsTo (hb : s.out.Fits s.dev.outBytes) : RunsTo (OutBuf.Fits s.dev.outBytes) (finishOut s) := by
  unfold finishOut
  split
  · exact outAppendAll_runsTo hcap hb.redraw _
  · have hloop := finishLoop_runsTo hcap hsess (List.range s.nframes)
      { last := none, acc := s.session.quantum.toNat } hb.redraw
    split
    · rename_i he; exact hloop.error he
    · rename_i ho; exact outAppendAll_runsTo hcap (hloop.ok ho) _

end FinishRuns

/-! ### Indices ADD_FRAME stores -/

theorem colourIndex_lt {c : Word} {qs : List Word} {j : Nat} :
    ∀ {k : Nat}, colourIndex c qs k = some j → j < k + qs.length := by
  induction qs with
  | nil => intro k h; cases h
  | cons q qs ih =>
    intro k h
    unfold colourIndex at h
    split at h
    · cases h; simp
    · have := ih h
      simp only [List.length_cons]
      omega

theorem lookup_lt_or_sentinel (palette : List Word) (c : Word) :
    lookup palette c < palette.length ∨ lookup palette c = sentinelIndex := by
  unfold lookup
  cases h : colourIndex c palette 0 with
  | none => exact .inr rfl
  | some j => exact .inl (by simpa using colourIndex_lt h)

/-! ## The permission table read backwards (30_encoding.md R118) -/

theorem ne_fault_of_allowed {i : Instr} {p : Phase} (hi : i ≠ .softReset) (h : allowed i p = true) : p ≠ .fault := by
  rintro rfl
  cases i with
  | softReset => exact hi rfl
  | _ => cases h

theorem allowed_configure {p : Phase} : allowed .configure p = true ↔ p = .idle := by cases p <;> decide

theorem allowed_addFrame {p : Phase} : allowed .addFrame p = true ↔ p = .accumulating := by cases p <;> decide

theorem allowed_finish {p : Phase} : allowed .finish p = true ↔ p = .accumulating := by cases p <;> decide

/-! ## The invariant, update by update (10_state.md R36, R44, R45, R54 to R57) -/

theorem State.Inv.outBytes_lt {s : State} (h : s.Inv) : s.dev.outBytes < 2 ^ 32 := by
  obtain ⟨hdev, -⟩ := h
  obtain ⟨-, ⟨-, hle⟩, -⟩ := Params.wf_iff.mp hdev
  omega

theorem State.Inv.noFault {s : State} (h : s.Inv) (hp : s.phase ≠ .fault) : s.faultCode = .noFault := by
  obtain ⟨-, -, -, hfault, -⟩ := h
  exact hfault.mpr hp

theorem State.Inv.not_isRunning {s : State} (h : s.Inv) (hp : s.phase ≠ .fault) : ¬ s.faultCode.isRunning := by
  simp [h.noFault hp]

theorem State.Inv.out_fits {s : State} (h : s.Inv) (hp : s.phase ≠ .fault) : s.out.Fits s.dev.outBytes := by
  have hrun := h.not_isRunning hp
  obtain ⟨-, -, hout, -⟩ := h
  exact hout.fits hrun

/-- The reset state meets the invariant on every well-formed device. -/
theorem inv_resetWith {d : Params} (hd : d.wf = true) (script : List HostEvent) (readData : List Word)
    (inEpoch outEpoch : Nat) : (State.resetWith d script readData inEpoch outEpoch).Inv := by
  simp [State.Inv, State.InOk, State.OutOk, State.FaultOk, State.SessionOk, State.FramesOk, State.RectOk,
    State.resetWith, Memory.wf, hd]

theorem State.Inv.doReset {s : State} (h : s.Inv) : (Machine.doReset s).Inv := by
  obtain ⟨hdev, -⟩ := h
  exact inv_resetWith hdev ..

theorem State.Inv.setScript {s : State} (h : s.Inv) (es : List HostEvent) : (s.setScript es).Inv := h

theorem State.Inv.pushRead {s : State} (h : s.Inv) (v : Word) : (s.pushRead v).Inv := h

theorem State.Inv.setHash {s : State} (h : s.Inv) (v : Word) : (s.setHash v).Inv := h

/-- No register the host writes is one the invariant speaks of. -/
theorem State.Inv.writeReg {s : State} (h : s.Inv) (v : Word) (r : Reg) : (Machine.writeReg s v r).Inv := by
  cases r <;> exact h

theorem State.Inv.setIn {s : State} (h : s.Inv) {i : Nat} (hi : i < s.dev.inWords) (v : Word) : (s.setIn i v).Inv := by
  obtain ⟨hdev, ⟨hwf, hlt⟩, hrest⟩ := h
  refine ⟨hdev, ⟨Memory.wf_write hwf i v, fun c hc => ?_⟩, hrest⟩
  rcases Memory.mem_write hc with rfl | hc
  · exact hi
  · exact hlt c hc

theorem State.Inv.raiseFault {s : State} (h : s.Inv) (hp : s.phase ≠ .fault) {c : FaultCode} (hc : c ≠ .noFault) :
    (Machine.raiseFault c s).Inv := by
  have hrun := h.not_isRunning hp
  obtain ⟨hdev, hin, ⟨hwf, hlt, hlen⟩, -, -, ⟨hmax, -, hframes⟩, hrect⟩ := h
  exact ⟨hdev, hin, ⟨hwf, hlt, fun _ => hlen hrun⟩, by simp [State.FaultOk, hc], by simp [State.SessionOk],
    ⟨hmax, by simp, hframes⟩, hrect⟩

theorem State.Inv.raiseRunningFault {s : State} (h : s.Inv) {c : FaultCode} (hc : c.isRunning) :
    (Machine.raiseRunningFault c s).Inv := by
  have hne : c ≠ .noFault := by rintro rfl; simp [FaultCode.isRunning] at hc
  obtain ⟨hdev, hin, -, -, -, ⟨hmax, -, hframes⟩, hrect⟩ := h
  refine ⟨hdev, hin, ⟨?_, ?_, fun hn => absurd hc hn⟩, by simp [State.FaultOk, hne],
    by simp [State.SessionOk], ⟨hmax, by simp, hframes⟩, hrect⟩
  · simp [OutBuf.unspecified, Memory.wf]
  · simp [OutBuf.unspecified]

theorem State.Inv.setOut {s : State} (h : s.Inv) {b : OutBuf} (hb : b.Fits s.dev.outBytes) : (s.setOut b).Inv := by
  obtain ⟨hdev, hin, -, hrest⟩ := h
  exact ⟨hdev, hin, State.outOk_of_fits (s := s.setOut b) hb, hrest⟩

/-- The edge from ACCUMULATING to FINALIZED keeps the session in use. -/
theorem State.Inv.setPhase_finalized {s : State} (h : s.Inv) (hp : s.phase = .accumulating) :
    (s.setPhase .finalized).Inv := by
  have hcode := h.noFault (by simp [hp])
  obtain ⟨hdev, hin, hout, -, hsess, ⟨hmax, -, hframes⟩, hrect⟩ := h
  exact ⟨hdev, hin, hout, by simp [State.FaultOk, hcode], fun _ => hsess (.inl hp), ⟨hmax, by simp, hframes⟩, hrect⟩

theorem State.Inv.setRect {s : State} (h : s.Inv) {e : Bool} {xy wh : Word} (hr : e = true → xy = 0 ∧ wh = 0) :
    (s.setRect e xy wh).Inv := by
  obtain ⟨hdev, hin, hout, hfault, hsess, hframes, -⟩ := h
  exact ⟨hdev, hin, hout, hfault, hsess, hframes, hr⟩

/-- An accepted configuration is what the invariant asks of a session in use (40_container.md R141). -/
theorem sessionOk_latched {s : State} {p : PaletteSize} (h : configurable s p) :
    1 ≤ (s.latched p).width.toNat ∧ 1 ≤ (s.latched p).height.toNat ∧ 1 ≤ (s.latched p).scale.toNat ∧
      (s.latched p).pixels ≤ s.dev.inWords ∧
      (s.latched p).palette.length = (s.latched p).psize.toNat ∧ (s.latched p).palette.Nodup := by
  obtain ⟨-, hw, hh, hs, hpix, hnodup⟩ := h
  have pos {x : BitVec 16} (hx : x ≠ 0) : 1 ≤ x.toNat :=
    Nat.one_le_iff_ne_zero.mpr fun h0 => hx (BitVec.eq_of_toNat_eq h0)
  refine ⟨pos hw, pos hh, pos hs, hpix, ?_, hnodup⟩
  simp only [State.latched, State.paletteWords, List.length_take, length_palette]
  cases p <;> rfl

/-- Latching a session empties the store; in IDLE that keeps the invariant. -/
theorem State.Inv.setSession {s : State} (h : s.Inv) (hp : s.phase = .idle) (c : Session) : (s.setSession c).Inv := by
  obtain ⟨hdev, hin, hout, hfault, -, -, hrect⟩ := h
  exact ⟨hdev, hin, hout, hfault, by simp [State.SessionOk, hp], by simp [State.FramesOk], hrect⟩

/-- The edge from IDLE to ACCUMULATING. -/
theorem State.Inv.setPhase_accumulating {s : State} (h : s.Inv) (hp : s.phase = .idle)
    (hsess : (s.setPhase .accumulating).SessionOk) : (s.setPhase .accumulating).Inv := by
  have hcode := h.noFault (by simp [hp])
  obtain ⟨hdev, hin, hout, -, -, ⟨hmax, -, hframes⟩, hrect⟩ := h
  exact ⟨hdev, hin, hout, by simp [State.FaultOk, hcode], hsess, ⟨hmax, by simp, hframes⟩, hrect⟩

/-! ## The invariant, command by command -/

theorem State.Inv.configureBody {s : State} (h : s.Inv) (hp : s.phase = .idle) : (Machine.configureBody s).Inv := by
  rcases configureBody_cases s with ⟨-, he⟩ | ⟨p, hc, ⟨-, he⟩ | ⟨b, hb, he⟩⟩
  · rw [he]; exact h.raiseFault (by simp [hp]) (by simp)
  · rw [he]; exact (h.setSession hp _).raiseRunningFault (.inr rfl)
  · have hfits : b.Fits s.dev.outBytes := (outAppendAll_runsTo h.outBytes_lt (s.out.fits_clear _) _).ok hb
    rw [he]
    exact ((h.setSession hp _).setOut hfits).setPhase_accumulating hp fun _ => sessionOk_latched hc

theorem State.Inv.addFrameBody {s : State} (h : s.Inv) (hp : s.phase = .accumulating) :
    (Machine.addFrameBody s).Inv := by
  have hnf : s.phase ≠ .fault := by simp [hp]
  rcases addFrameBody_cases s with ⟨-, he⟩ | ⟨-, -, he⟩ | ⟨hpix, hroom, he⟩
  · rw [he]; exact h.raiseFault hnf (by simp)
  · rw [he]; exact h.raiseFault hnf (by simp)
  · rw [he]
    obtain ⟨hdev, hin, hout, hfault, hsess, ⟨hmax, -, hframes⟩, hrect⟩ := h
    obtain ⟨-, -, -, -, hpal, -⟩ := hsess (.inl hp)
    refine ⟨hdev, hin, hout, hfault, hsess, ⟨?_, by simp [hp], fun f hf => ?_⟩, hrect⟩
    · simp only [pushFrame_frames, pushFrame_dev, List.length_append, List.length_singleton]
      exact Nat.lt_of_le_of_ne hmax hroom
    · rcases List.mem_append.mp hf with hf | hf
      · exact hframes f hf
      · obtain rfl := List.mem_singleton.mp hf
        refine ⟨by simpa [State.inWords] using hpix, fun x hx => ?_⟩
        obtain ⟨c, -, rfl⟩ := List.mem_map.mp hx
        rw [pushFrame_session, ← hpal]
        exact lookup_lt_or_sentinel _ c

theorem State.Inv.finishBody {s : State} (h : s.Inv) (hp : s.phase = .accumulating) : (Machine.finishBody s).Inv := by
  have hfits := h.out_fits (by simp [hp])
  have hsess : s.SessionOk := by obtain ⟨-, -, -, -, hsess, -⟩ := h; exact hsess
  obtain ⟨hw, hh, hs, -⟩ := hsess (.inl hp)
  have hrun := finishOut_runsTo h.outBytes_lt ⟨hw, hh, hs⟩ hfits
  rcases finishBody_cases s with ⟨e, ho, he⟩ | ⟨b, ho, he⟩
  · rw [he]; exact h.raiseRunningFault (hrun.error ho)
  · rw [he]; exact (h.setOut (hrun.ok ho)).setPhase_finalized hp

theorem State.Inv.diffRectBody {s : State} (h : s.Inv) (hp : s.phase ≠ .fault) : (Machine.diffRectBody s).Inv := by
  rcases diffRectBody_cases s with ⟨-, he⟩ | ⟨-, -, he⟩
  · rw [he]; exact h.raiseFault hp (by simp)
  · rw [he]
    cases bbox (s.frame s.arg0Nat) (s.frame s.arg1Nat) s.session.width.toNat s.session.height.toNat with
    | none => exact h.setRect fun _ => ⟨rfl, rfl⟩
    | some r => exact h.setRect (e := false) (by simp)

theorem State.symbols_ne_nil {s : State} (h : s.arg0Nat ≠ 0) : s.symbols ≠ [] := by
  simpa [State.symbols, State.inWords] using h

theorem State.Inv.lzwEncodeRun {s : State} (h : s.Inv) (hne : s.arg0Nat ≠ 0) (p : PaletteSize) :
    (Machine.lzwEncodeRun s p).Inv := by
  rcases lzwEncodeRun_cases s p with ⟨f, hf, he⟩ | ⟨bytes, -, ⟨-, he⟩ | ⟨b, hb, he⟩⟩
  · rw [he]; exact h.raiseRunningFault (.inl (lzwStream_error (State.symbols_ne_nil hne) hf))
  · rw [he]; exact h.raiseRunningFault (.inr rfl)
  · rw [he]; exact h.setOut ((outAppendAll_runsTo h.outBytes_lt (s.out.fits_clear _) bytes).ok hb)

theorem State.Inv.lzwEncodeBody {s : State} (h : s.Inv) (hp : s.phase ≠ .fault) : (Machine.lzwEncodeBody s).Inv := by
  rcases lzwEncodeBody_cases s with ⟨-, he⟩ | ⟨p, -, ⟨-, he⟩ | ⟨-, -, he⟩ | ⟨hne, -, he⟩⟩
  · rw [he]; exact h.raiseFault hp (by simp)
  · rw [he]; exact h.raiseFault hp (by simp)
  · rw [he]; exact h.raiseFault hp (by simp)
  · rw [he]; exact h.lzwEncodeRun hne p

theorem State.Inv.hashSeqBody {s : State} (h : s.Inv) (hp : s.phase ≠ .fault) : (Machine.hashSeqBody s).Inv := by
  rcases hashSeqBody_cases s with ⟨-, he⟩ | ⟨-, he⟩
  · rw [he]; exact h.raiseFault hp (by simp)
  · rw [he]; exact h.setHash _

theorem State.Inv.effect {s : State} (h : s.Inv) {i : Instr} (ha : allowed i s.phase = true) :
    (Machine.effect i s).Inv := by
  by_cases hi : i = .softReset
  · subst hi; exact h.doReset
  have hp : s.phase ≠ .fault := ne_fault_of_allowed hi ha
  cases i with
  | nop => exact h
  | softReset => exact absurd rfl hi
  | configure => exact h.configureBody (allowed_configure.mp ha)
  | addFrame => exact h.addFrameBody (allowed_addFrame.mp ha)
  | finish => exact h.finishBody (allowed_finish.mp ha)
  | diffRect => exact h.diffRectBody hp
  | lzwEncode => exact h.lzwEncodeBody hp
  | hashInit => exact h.setHash _
  | hashExtend => exact h.setHash _
  | hashSeq => exact h.hashSeqBody hp

theorem State.Inv.exec {s t : State} (h : s.Inv) {i : Instr} (he : Machine.exec i s = .next t) : t.Inv := by
  rcases exec_cases he with ⟨ha, rfl⟩ | ⟨-, -, rfl⟩ | ⟨-, hp, rfl⟩
  · exact h.effect ha
  · exact h
  · exact h.raiseFault hp (by simp)

/-! ## The invariant, transaction by transaction -/

theorem State.Inv.illegalWord {s : State} (h : s.Inv) : (Machine.illegalWord s).Inv := by
  unfold Machine.illegalWord
  split
  · exact h
  · rename_i hp; exact h.raiseFault hp (by simp)

theorem State.Inv.runCommand {s t : State} (h : s.Inv) {w : Word} (hr : Machine.runCommand w s = .next t) : t.Inv := by
  rcases runCommand_cases w s with ⟨i, -, he⟩ | ⟨r, -, he⟩ <;> rw [he] at hr
  · exact h.exec hr
  · cases hr; exact h.illegalWord

theorem State.Inv.plainWrite {s : State} (h : s.Inv) (a v : Word) : (Machine.plainWrite s a v).Inv := by
  rcases plainWrite_cases s a v with ⟨r, he⟩ | ⟨i, hi, he⟩ | he <;> rw [he]
  · exact h.writeReg v r
  · exact h.setIn hi v
  · exact h

theorem State.Inv.hostEvent {s t : State} (h : s.Inv) {e : HostEvent} (he : Machine.hostEvent e s = .next t) :
    t.Inv := by
  rcases hostEvent_cases he with ⟨a, n, -, -, rfl⟩ | ⟨a, n, v, -, -, -, hr⟩ | ⟨a, n, v, -, -, -, rfl⟩ | ⟨-, rfl⟩
  · exact h.pushRead _
  · exact h.runCommand hr
  · exact h.plainWrite a v
  · exact h.doReset

/-- Settles O60: the invariant is kept by every transaction, hence by every step. -/
theorem everyStepKeepsTheInvariant : Obligations.EveryStepKeepsTheInvariant := by
  unfold Obligations.EveryStepKeepsTheInvariant
  intro s t h hst
  rcases step_cases hst with ⟨-, rfl⟩ | ⟨e, es, -, he⟩
  · exact h
  · exact (h.setScript es).hostEvent he

/-- Settles O59: power-on is the reset state of a well-formed device. -/
theorem invariantHoldsAtReset : Obligations.InvariantHoldsAtReset :=
  inv_resetWith (by decide) ..

end Sys2Proof.Machine

/-! ## The register map and the address map (10_state.md R31, R52; 20_memory.md R81) -/

namespace Sys2Proof.Machine

/-- The register map has no two registers at one offset. -/
theorem Reg.ofOffset_offset (r : Reg) : Reg.ofOffset r.offset = some r := by
  cases r with
  | pal i => revert i; decide
  | _ => rfl

theorem Reg.offset_lt (r : Reg) : r.offset < regEnd := by
  cases r with
  | pal i =>
    have hi : i.val < 16 := i.isLt
    simp only [Reg.offset, regEnd]
    omega
  | _ => decide

@[simp] theorem Reg.toNat_addr (r : Reg) : r.addr.toNat = r.offset := by
  have h : r.offset < 0x1000 := r.offset_lt
  simp only [Reg.addr, BitVec.toNat_ofNat]
  omega

theorem Reg.addr_inj {r r' : Reg} (h : r.addr = r'.addr) : r = r' := by
  have ho : r.offset = r'.offset := by rw [← r.toNat_addr, h, r'.toNat_addr]
  have hs : some r = some r' := by rw [← r.ofOffset_offset, ho, r'.ofOffset_offset]
  exact Option.some.inj hs

theorem memRead_addr (s : State) (r : Reg) : memRead s r.addr = readReg s r := by
  rw [memRead, Reg.toNat_addr, if_pos r.offset_lt, Reg.ofOffset_offset]

theorem memWrite_addr (s : State) (v : Word) {r : Reg} (hr : r ≠ .cmd) :
    memWrite s r.addr v = .next (writeReg s v r) := by
  rw [memWrite, if_neg fun h => hr (Reg.addr_inj h), plainWrite, Reg.toNat_addr, if_pos r.offset_lt,
    Reg.ofOffset_offset]

theorem memWrite_cmd (s : State) (v : Word) : memWrite s (Reg.addr .cmd) v = runCommand v s := if_pos rfl

/-- Settles O11: each offset of the map is the address of its register. -/
theorem registersAnswerAtTheirOffsets : Obligations.RegistersAnswerAtTheirOffsets := by
  unfold Obligations.RegistersAnswerAtTheirOffsets
  intro s v
  refine ⟨fun r hr => ?_, fun i => ?_, memRead_addr s .cmd, memWrite_cmd s v⟩
  · have hoff : r.1 = r.2.offset := by
      revert r
      decide
    rw [hoff]
    exact ⟨memRead_addr s r.2, memWrite_addr s v⟩
  · exact ⟨memRead_addr s (.pal i), memWrite_addr s v (r := .pal i) (by simp)⟩

/-- The reserved offsets of the register block (10_state.md R52). -/
theorem Reg.ofOffset_reserved {o : Nat} (h : 0x04C ≤ o ∧ o < 0x080 ∨ 0x0C0 ≤ o) : Reg.ofOffset o = none := by
  rw [Reg.ofOffset, if_neg (by omega), List.find?_eq_none]
  intro r hr
  have hlow : r.offset < 0x04C := by
    revert r
    decide
  simp only [beq_iff_eq]
  omega

/-- What the address map has at an address that no register, IN word or OUT byte occupies. -/
def Unmapped (s : State) (a : Nat) : Prop :=
  0x04C ≤ a ∧ a < 0x080 ∨ 0x0C0 ≤ a ∧ a < 0x01000000 ∨
    0x01000000 + 4 * s.dev.inWords ≤ a ∧ a < 0x02000000 ∨ 0x02000000 + s.dev.outBytes ≤ a

theorem addressMap_constants :
    regEnd = 0x1000 ∧ inBase = 0x01000000 ∧ outBase = 0x02000000 ∧ windowBytes = 0x01000000 := ⟨rfl, rfl, rfl, rfl⟩

theorem memRead_unmapped {s : State} {a : Word} (h : Unmapped s a.toNat) : memRead s a = 0 := by
  have hmap := addressMap_constants
  unfold Unmapped at h
  unfold memRead
  split
  · rw [Reg.ofOffset_reserved (by omega)]
  · split
    · exact if_neg (by omega)
    · split
      · exact if_neg (by omega)
      · rfl

theorem plainWrite_unmapped {s : State} {a : Word} (h : Unmapped s a.toNat) (v : Word) : plainWrite s a v = s := by
  have hmap := addressMap_constants
  unfold Unmapped at h
  unfold plainWrite
  split
  · rw [Reg.ofOffset_reserved (by omega)]
  · split
    · exact if_neg (by omega)
    · rfl

/-- From the OUT window on, a write has no effect (20_memory.md R81, R83). -/
theorem plainWrite_of_outBase_le {s : State} {a : Word} (h : 0x02000000 ≤ a.toNat) (v : Word) :
    plainWrite s a v = s := by
  have hmap := addressMap_constants
  rw [plainWrite, if_neg (by omega), if_neg (by omega)]

theorem memWrite_plain {s : State} {a : Word} (h : 0x00C ≤ a.toNat) (v : Word) :
    memWrite s a v = .next (plainWrite s a v) := by
  refine if_neg ?_
  rintro rfl
  simp [Reg.offset] at h

/-- Settles O12. -/
theorem unmappedAddressesReadZeroAndIgnoreWrites : Obligations.UnmappedAddressesReadZeroAndIgnoreWrites := by
  unfold Obligations.UnmappedAddressesReadZeroAndIgnoreWrites
  intro s a v _ _
  refine ⟨fun (h : Unmapped s a.toNat) => ⟨memRead_unmapped h, ?_⟩, fun h => ?_⟩
  · rw [memWrite_plain (by unfold Unmapped at h; omega), plainWrite_unmapped h]
  · rw [memWrite_plain (by omega), plainWrite_of_outBase_le h]

/-! ## STATUS and PARAMS, field by field (10_state.md R33, R51) -/

/-- A flag placed at bit `j` of a word. -/
theorem getLsbD_flag (b : Bool) (j : Nat) {k : Nat} (hk : k < 32) :
    ((BitVec.ofBool b).setWidth 32 <<< j).getLsbD k = (decide (k = j) && b) := by
  have hpos : (!decide (k < j) && decide (k - j = 0)) = decide (k = j) := by
    rw [← decide_not, ← Bool.decide_and, decide_eq_decide]
    omega
  simp [hk, ← hpos, Bool.and_assoc]

section StatusFields

variable (s : State)

/-- Bit `k` of STATUS: FAULT_CODE from bit 8 on, RECT_EMPTY in bit 2, STATE from bit 0 on. -/
theorem getLsbD_status {k : Nat} (hk : k < 32) :
    s.status.getLsbD k =
      (!decide (k < 8) && s.faultCode.code.getLsbD (k - 8) || decide (k = 2) && s.rectEmpty ||
        s.phase.code.getLsbD k) := by
  rw [State.status, BitVec.getLsbD_or, BitVec.getLsbD_or, getLsbD_flag _ _ hk]
  simp [hk]

theorem status_state : s.status.extractLsb' 0 2 = s.phase.code := by
  ext k hk
  have hlow : k < 8 ∧ k ≠ 2 := by omega
  rw [BitVec.getElem_extractLsb', Nat.zero_add, getLsbD_status s (by omega), ← BitVec.getLsbD_eq_getElem]
  simp [hlow]

theorem status_rectEmpty : s.status.getLsbD 2 = s.rectEmpty := by
  rw [getLsbD_status s (by omega), BitVec.getLsbD_of_ge s.phase.code 2 (by omega)]
  simp

theorem status_reserved_low : s.status.extractLsb' 3 5 = 0 := by
  ext k hk
  have hlow : 3 + k < 8 ∧ 3 + k ≠ 2 := by omega
  rw [BitVec.getElem_extractLsb', getLsbD_status s (by omega), BitVec.getLsbD_of_ge s.phase.code _ (by omega)]
  simp [hlow]

theorem status_faultCode : s.status.extractLsb' 8 8 = s.faultCode.code := by
  ext k hk
  have hmid : ¬ 8 + k < 8 ∧ 8 + k ≠ 2 := by omega
  rw [BitVec.getElem_extractLsb', getLsbD_status s (by omega), BitVec.getLsbD_of_ge s.phase.code _ (by omega),
    Nat.add_sub_cancel_left, BitVec.getLsbD_eq_getElem hk]
  simp [hmid]

theorem status_reserved_high : s.status.extractLsb' 16 16 = 0 := by
  ext k hk
  have hhigh : 16 + k ≠ 2 := by omega
  rw [BitVec.getElem_extractLsb', getLsbD_status s (by omega), BitVec.getLsbD_of_ge s.phase.code _ (by omega),
    BitVec.getLsbD_of_ge s.faultCode.code _ (by omega)]
  simp [hhigh]

end StatusFields

/-- Settles O13: each field of STATUS holds the code that R34 or R281 gives its value. -/
theorem statusFieldsStandWhereTheRuleSays : Obligations.StatusFieldsStandWhereTheRuleSays := by
  unfold Obligations.StatusFieldsStandWhereTheRuleSays
  intro s
  have hread : memRead s 0x004#32 = s.status := memRead_addr s .status
  rw [hread]
  refine ⟨(status_state s).trans ?_, status_rectEmpty s, status_reserved_low s, (status_faultCode s).trans ?_,
    status_reserved_high s, fun v => memWrite_addr s v (r := .status) (by simp)⟩
  · cases s.phase <;> rfl
  · cases s.faultCode <;> rfl

/-- Bit `k` of PARAMS. -/
theorem getLsbD_paramsWord (d : Params) {k : Nat} (hk : k < 32) :
    (paramsWord d).getLsbD k =
      (decide (k = 0) && decide (d.dictKey = .exactSeq) || decide (k = 1) && d.finalGrowth ||
        decide (k = 2) && d.termAlways) := by
  rw [paramsWord, BitVec.getLsbD_or, BitVec.getLsbD_or, getLsbD_flag _ _ hk, getLsbD_flag _ _ hk]
  simp [hk, beq_eq_decide]

theorem paramsWord_dictKey (d : Params) : (paramsWord d).getLsbD 0 = decide (d.dictKey = .exactSeq) := by
  rw [getLsbD_paramsWord d (by omega)]
  simp

theorem paramsWord_finalGrowth (d : Params) : (paramsWord d).getLsbD 1 = d.finalGrowth := by
  rw [getLsbD_paramsWord d (by omega)]
  simp

theorem paramsWord_termAlways (d : Params) : (paramsWord d).getLsbD 2 = d.termAlways := by
  rw [getLsbD_paramsWord d (by omega)]
  simp

theorem paramsWord_reserved (d : Params) : (paramsWord d).extractLsb' 3 29 = 0 := by
  ext k hk
  have hhigh : 3 + k ≠ 0 ∧ 3 + k ≠ 1 ∧ 3 + k ≠ 2 := by omega
  rw [BitVec.getElem_extractLsb', getLsbD_paramsWord d (by omega)]
  simp [hhigh]

/-! ## What commands leave alone (30_encoding.md R114, 10_state.md R38, R57) -/

/-- What no command but SOFT_RESET writes: the device, the operand and configuration registers, IN, the host's side. -/
structure Operands where
  dev : Params
  arg0 : Word
  arg1 : Word
  width : BitVec 16
  height : BitVec 16
  scale : BitVec 16
  psize : BitVec 5
  quantum : BitVec 16
  palette : Vector Word maxPalette
  inMem : Memory Word
  inEpoch : Nat
  script : List HostEvent
  readData : List Word

def State.operands (s : State) : Operands where
  dev := s.dev
  arg0 := s.arg0
  arg1 := s.arg1
  width := s.width
  height := s.height
  scale := s.scale
  psize := s.psize
  quantum := s.quantum
  palette := s.palette
  inMem := s.inMem
  inEpoch := s.inEpoch
  script := s.script
  readData := s.readData

@[simp] theorem operands_setPhase (s : State) (p : Phase) : (s.setPhase p).operands = s.operands := rfl

@[simp] theorem operands_setOut (s : State) (b : OutBuf) : (s.setOut b).operands = s.operands := rfl

@[simp] theorem operands_setHash (s : State) (h : Word) : (s.setHash h).operands = s.operands := rfl

@[simp] theorem operands_setSession (s : State) (c : Session) : (s.setSession c).operands = s.operands := rfl

@[simp] theorem operands_pushFrame (s : State) (f : List Nat) : (s.pushFrame f).operands = s.operands := rfl

@[simp] theorem operands_raiseFault (c : FaultCode) (s : State) : (raiseFault c s).operands = s.operands := rfl

@[simp] theorem operands_raiseRunningFault (c : FaultCode) (s : State) :
    (raiseRunningFault c s).operands = s.operands := rfl

@[simp] theorem operands_reportRect (s : State) (r : Option Rect) : (reportRect s r).operands = s.operands := by
  cases r <;> rfl

theorem operands_configureBody (s : State) : (configureBody s).operands = s.operands := by
  rcases configureBody_cases s with ⟨-, he⟩ | ⟨p, -, ⟨-, he⟩ | ⟨b, -, he⟩⟩ <;> simp [he]

theorem operands_addFrameBody (s : State) : (addFrameBody s).operands = s.operands := by
  rcases addFrameBody_cases s with ⟨-, he⟩ | ⟨-, -, he⟩ | ⟨-, -, he⟩ <;> simp [he]

theorem operands_finishBody (s : State) : (finishBody s).operands = s.operands := by
  rcases finishBody_cases s with ⟨e, -, he⟩ | ⟨b, -, he⟩ <;> simp [he]

theorem operands_diffRectBody (s : State) : (diffRectBody s).operands = s.operands := by
  rcases diffRectBody_cases s with ⟨-, he⟩ | ⟨-, -, he⟩ <;> simp [he]

theorem operands_lzwEncodeRun (s : State) (p : PaletteSize) : (lzwEncodeRun s p).operands = s.operands := by
  rcases lzwEncodeRun_cases s p with ⟨f, -, he⟩ | ⟨bytes, -, ⟨-, he⟩ | ⟨b, -, he⟩⟩ <;> simp [he]

theorem operands_lzwEncodeBody (s : State) : (lzwEncodeBody s).operands = s.operands := by
  rcases lzwEncodeBody_cases s with ⟨-, he⟩ | ⟨p, -, ⟨-, he⟩ | ⟨-, -, he⟩ | ⟨-, -, he⟩⟩ <;>
    simp [he, operands_lzwEncodeRun]

theorem operands_hashSeqBody (s : State) : (hashSeqBody s).operands = s.operands := by
  rcases hashSeqBody_cases s with ⟨-, he⟩ | ⟨-, he⟩ <;> simp [he]

theorem operands_effect {i : Instr} (hi : i ≠ .softReset) (s : State) : (effect i s).operands = s.operands := by
  cases i with
  | softReset => exact absurd rfl hi
  | nop | hashInit | hashExtend => rfl
  | configure => exact operands_configureBody s
  | addFrame => exact operands_addFrameBody s
  | finish => exact operands_finishBody s
  | diffRect => exact operands_diffRectBody s
  | lzwEncode => exact operands_lzwEncodeBody s
  | hashSeq => exact operands_hashSeqBody s

theorem operands_exec {i : Instr} (hi : i ≠ .softReset) {s t : State} (h : exec i s = .next t) :
    t.operands = s.operands := by
  rcases exec_cases h with ⟨-, rfl⟩ | ⟨-, -, rfl⟩ | ⟨-, -, rfl⟩
  · exact operands_effect hi s
  · rfl
  · exact operands_raiseFault .badState s

theorem inWord_eq_of_operands {s t : State} (h : t.operands = s.operands) (j : Nat) : t.inWord j = s.inWord j := by
  have hmem : t.inMem = s.inMem := congrArg Operands.inMem h
  have hepoch : t.inEpoch = s.inEpoch := congrArg Operands.inEpoch h
  rw [State.inWord, State.inWord, hmem, hepoch]

/-- Settles O23. -/
theorem commandsNeverWriteTheirOperands : Obligations.CommandsNeverWriteTheirOperands := by
  unfold Obligations.CommandsNeverWriteTheirOperands
  intro i s t hi he
  have h : t.operands = s.operands := operands_exec hi he
  exact ⟨congrArg Operands.arg0 h, congrArg Operands.arg1 h, congrArg Operands.width h, congrArg Operands.height h,
    congrArg Operands.scale h, congrArg Operands.psize h, congrArg Operands.quantum h, congrArg Operands.palette h,
    inWord_eq_of_operands h, congrArg Operands.dev h, congrArg Operands.script h, congrArg Operands.readData h⟩

/-! ## The device parameters never change (10_state.md R50) -/

theorem exec_dev {i : Instr} {s t : State} (h : exec i s = .next t) : t.dev = s.dev := by
  by_cases hi : i = .softReset
  · subst hi; cases h; rfl
  · exact congrArg Operands.dev (operands_exec hi h)

theorem illegalWord_dev (s : State) : (illegalWord s).dev = s.dev := by
  unfold illegalWord
  split <;> rfl

theorem runCommand_dev {w : Word} {s t : State} (h : runCommand w s = .next t) : t.dev = s.dev := by
  rcases runCommand_cases w s with ⟨i, -, he⟩ | ⟨r, -, he⟩ <;> rw [he] at h
  · exact exec_dev h
  · cases h; exact illegalWord_dev s

theorem writeReg_dev (s : State) (v : Word) (r : Reg) : (writeReg s v r).dev = s.dev := by cases r <;> rfl

theorem plainWrite_dev (s : State) (a v : Word) : (plainWrite s a v).dev = s.dev := by
  rcases plainWrite_cases s a v with ⟨r, he⟩ | ⟨i, -, he⟩ | he <;> rw [he]
  · exact writeReg_dev s v r
  · rfl

theorem hostEvent_dev {e : HostEvent} {s t : State} (h : hostEvent e s = .next t) : t.dev = s.dev := by
  rcases hostEvent_cases h with ⟨a, n, -, -, rfl⟩ | ⟨a, n, v, -, -, -, hr⟩ | ⟨a, n, v, -, -, -, rfl⟩ | ⟨-, rfl⟩
  · rfl
  · exact runCommand_dev hr
  · exact plainWrite_dev s a v
  · rfl

theorem step_dev {s t : State} (h : step s = .next t) : t.dev = s.dev := by
  rcases step_cases h with ⟨-, rfl⟩ | ⟨e, es, -, he⟩
  · rfl
  · rw [hostEvent_dev he, setScript_dev]

/-- The registers that show the device parameters (10_state.md R50, R51). -/
def capabilityRegs : List Reg := [.capIn, .capOut, .capFrames, .params]

theorem writeReg_capability {r : Reg} (hr : r ∈ capabilityRegs) (s : State) (v : Word) : writeReg s v r = s := by
  simp only [capabilityRegs, List.mem_cons, List.not_mem_nil, or_false] at hr
  rcases hr with rfl | rfl | rfl | rfl <;> rfl

theorem readReg_capability {r : Reg} (hr : r ∈ capabilityRegs) {s t : State} (h : t.dev = s.dev) :
    readReg t r = readReg s r := by
  simp only [capabilityRegs, List.mem_cons, List.not_mem_nil, or_false] at hr
  rcases hr with rfl | rfl | rfl | rfl <;> simp only [readReg, h]

/-- Settles O14: the four registers show the device, which no step changes. -/
theorem capabilityRegistersAreConstant : Obligations.CapabilityRegistersAreConstant := by
  unfold Obligations.CapabilityRegistersAreConstant
  intro s
  have hparams : memRead s 0x048#32 = paramsWord s.dev := memRead_addr s .params
  rw [hparams]
  refine ⟨memRead_addr s .capIn, memRead_addr s .capOut, memRead_addr s .capFrames, paramsWord_dictKey s.dev,
    paramsWord_finalGrowth s.dev, paramsWord_termAlways s.dev, paramsWord_reserved s.dev, fun a ha => ?_⟩
  obtain ⟨r, hr, rfl⟩ := List.mem_map.mp (show a ∈ capabilityRegs.map Reg.addr from ha)
  have hcmd : r ≠ .cmd := by rintro rfl; exact absurd hr (by decide)
  refine ⟨fun v => ?_, fun t ht => ?_⟩
  · rw [memWrite_addr s v hcmd, writeReg_capability hr]
  · rw [memRead_addr, memRead_addr, readReg_capability hr (step_dev ht)]

/-! ## Another session in IDLE (10_state.md R54, 93_implementation_defined.md S5) -/

/-- The same state with another latched session. -/
def State.withSession (s : State) (c : Session) : State := { s with session := c }

theorem configureBody_of_configurable {s : State} {p : PaletteSize} (h : configurable s p) :
    configureBody s = configureRun s p := by
  obtain ⟨hp, hw, hh, hs, hpix, hnodup⟩ := h
  have hzero : ¬ (s.width = 0 ∨ s.height = 0 ∨ s.scale = 0) := not_or.mpr ⟨hw, not_or.mpr ⟨hh, hs⟩⟩
  simp only [configureBody, hp, if_neg hzero, if_neg (Nat.not_lt.mpr hpix), hasDuplicate_eq_false.mpr hnodup,
    Bool.false_eq_true, if_false]

theorem configureBody_of_not_configurable {s : State} (h : ∀ p, ¬ configurable s p) :
    configureBody s = raiseFault .badConfig s := by
  rcases configureBody_cases s with ⟨-, he⟩ | ⟨p, hc, -⟩
  · exact he
  · exact absurd hc (h p)

section OtherSession

variable (s : State) (c : Session)

@[simp] theorem withSession_dev : (s.withSession c).dev = s.dev := rfl

@[simp] theorem withSession_phase : (s.withSession c).phase = s.phase := rfl

@[simp] theorem withSession_arg0Nat : (s.withSession c).arg0Nat = s.arg0Nat := rfl

@[simp] theorem withSession_psize : (s.withSession c).psize = s.psize := rfl

@[simp] theorem withSession_out : (s.withSession c).out = s.out := rfl

@[simp] theorem withSession_symbols : (s.withSession c).symbols = s.symbols := rfl

theorem raiseFault_withSession (f : FaultCode) :
    raiseFault f (s.withSession c) = (raiseFault f s).withSession c := rfl

/-- No address shows the session (10_state.md R54). -/
theorem memRead_withSession (a : Word) : memRead (s.withSession c) a = memRead s a := rfl

theorem writeReg_withSession (v : Word) (r : Reg) :
    writeReg (s.withSession c) v r = (writeReg s v r).withSession c := by cases r <;> rfl

theorem plainWrite_withSession (a v : Word) :
    plainWrite (s.withSession c) a v = (plainWrite s a v).withSession c := by
  unfold plainWrite
  split
  · cases Reg.ofOffset a.toNat with
    | none => rfl
    | some r => exact writeReg_withSession s c v r
  · rw [withSession_dev]
    split
    · split <;> rfl
    · rfl

theorem illegalWord_withSession : illegalWord (s.withSession c) = (illegalWord s).withSession c := by
  unfold illegalWord
  rw [withSession_phase]
  split <;> rfl

theorem hashSeqBody_withSession : hashSeqBody (s.withSession c) = (hashSeqBody s).withSession c := by
  unfold hashSeqBody
  rw [withSession_dev, withSession_arg0Nat]
  split <;> rfl

theorem lzwEncodeRun_withSession (p : PaletteSize) :
    lzwEncodeRun (s.withSession c) p = (lzwEncodeRun s p).withSession c := by
  simp only [lzwEncodeRun, withSession_dev, withSession_symbols, withSession_out]
  cases lzwStream s.dev p s.symbols with
  | error f => rfl
  | ok bytes =>
    dsimp only
    cases outAppendAll s.dev.outBytes s.out.clear bytes <;> rfl

theorem lzwEncodeBody_withSession : lzwEncodeBody (s.withSession c) = (lzwEncodeBody s).withSession c := by
  unfold lzwEncodeBody
  rw [withSession_psize, withSession_arg0Nat, withSession_dev]
  cases PaletteSize.ofReg s.psize with
  | none => rfl
  | some p =>
    dsimp only
    split
    · rfl
    · split
      · rfl
      · exact lzwEncodeRun_withSession s c p

/-- CONFIGURE replaces the session whole, or refuses the configuration without looking at the session. -/
theorem configureBody_withSession :
    configureBody (s.withSession c) = configureBody s ∨
    configureBody (s.withSession c) = raiseFault .badConfig (s.withSession c) ∧
      configureBody s = raiseFault .badConfig s := by
  by_cases h : ∃ p, configurable s p
  · obtain ⟨p, hc⟩ := h
    refine .inl ?_
    rw [configureBody_of_configurable hc, configureBody_of_configurable (s := s.withSession c) hc]
    rfl
  · have hno : ∀ p, ¬ configurable s p := not_exists.mp h
    exact .inr ⟨configureBody_of_not_configurable (s := s.withSession c) hno, configureBody_of_not_configurable hno⟩

end OtherSession

/-- In `o'`, where `o` starts from `s`, from `s.withSession c`: the session has been replaced, or it has only been
carried along, into IDLE or FAULT. -/
def SessionForgotten (c : Session) (o o' : Host.Outcome State Fault Refusal) : Prop :=
  o' = o ∨ ∃ t, o = .next t ∧ o' = .next (t.withSession c) ∧ (t.phase = .idle ∨ t.phase = .fault)

theorem hashSeqBody_phase {s : State} (hp : s.phase = .idle) :
    (hashSeqBody s).phase = .idle ∨ (hashSeqBody s).phase = .fault := by
  rcases hashSeqBody_cases s with ⟨-, he⟩ | ⟨-, he⟩ <;> simp [he, hp]

theorem lzwEncodeRun_phase {s : State} (hp : s.phase = .idle) (p : PaletteSize) :
    (lzwEncodeRun s p).phase = .idle ∨ (lzwEncodeRun s p).phase = .fault := by
  rcases lzwEncodeRun_cases s p with ⟨f, -, he⟩ | ⟨bytes, -, ⟨-, he⟩ | ⟨b, -, he⟩⟩ <;> simp [he, hp]

theorem lzwEncodeBody_phase {s : State} (hp : s.phase = .idle) :
    (lzwEncodeBody s).phase = .idle ∨ (lzwEncodeBody s).phase = .fault := by
  rcases lzwEncodeBody_cases s with ⟨-, he⟩ | ⟨p, -, ⟨-, he⟩ | ⟨-, -, he⟩ | ⟨-, -, he⟩⟩
  · simp [he]
  · simp [he]
  · simp [he]
  · rw [he]; exact lzwEncodeRun_phase hp p

section ForgetsSession

variable {s : State} (hp : s.phase = .idle) (c : Session)

include hp

/-- What a command allowed in IDLE does with the session. -/
theorem effect_forgetsSession {i : Instr} (ha : allowed i .idle = true) :
    SessionForgotten c (.next (effect i s)) (.next (effect i (s.withSession c))) := by
  cases i with
  | nop | hashInit | hashExtend => exact .inr ⟨_, rfl, rfl, .inl hp⟩
  | softReset => exact .inl rfl
  | addFrame | finish | diffRect => cases ha
  | configure =>
    rcases configureBody_withSession s c with he | ⟨he, he'⟩
    · exact .inl (congrArg _ he)
    · exact .inr ⟨_, rfl, congrArg _ (he.trans (congrArg (State.withSession · c) he'.symm)), .inr (by simp [effect, he'])⟩
  | hashSeq => exact .inr ⟨_, rfl, congrArg _ (hashSeqBody_withSession s c), hashSeqBody_phase hp⟩
  | lzwEncode => exact .inr ⟨_, rfl, congrArg _ (lzwEncodeBody_withSession s c), lzwEncodeBody_phase hp⟩

theorem exec_forgetsSession (i : Instr) : SessionForgotten c (exec i s) (exec i (s.withSession c)) := by
  cases ha : allowed i s.phase with
  | true =>
    rw [exec_eq_issue, exec_eq_issue, issue_allowed ha, issue_allowed (s := s.withSession c) ha]
    exact effect_forgetsSession hp c (hp ▸ ha)
  | false =>
    have hnf : s.phase ≠ .fault := by simp [hp]
    refine .inr ⟨raiseFault .badState s, ?_, ?_, .inr rfl⟩
    · simp [exec_eq_issue, issue, ha, hnf]
    · simp [exec_eq_issue, issue, ha, hnf, raiseFault_withSession]

theorem runCommand_forgetsSession (w : Word) :
    SessionForgotten c (runCommand w s) (runCommand w (s.withSession c)) := by
  unfold runCommand
  cases decode w with
  | ok i => exact exec_forgetsSession hp c i
  | error r => exact .inr ⟨_, rfl, congrArg _ (illegalWord_withSession s c), .inr (by simp [illegalWord, hp])⟩

theorem writeReg_phase (v : Word) (r : Reg) : (writeReg s v r).phase = .idle := by cases r <;> exact hp

theorem plainWrite_phase (a v : Word) : (plainWrite s a v).phase = .idle := by
  rcases plainWrite_cases s a v with ⟨r, he⟩ | ⟨i, -, he⟩ | he <;> rw [he]
  · exact writeReg_phase hp v r
  · exact hp
  · exact hp

theorem hostEvent_forgetsSession (e : HostEvent) :
    SessionForgotten c (hostEvent e s) (hostEvent e (s.withSession c)) := by
  cases e with
  | read a n =>
    unfold hostEvent
    dsimp only
    split
    · exact .inr ⟨_, rfl, rfl, .inl hp⟩
    · exact .inl rfl
  | write a n v =>
    unfold hostEvent memWrite
    dsimp only
    split
    · split
      · exact runCommand_forgetsSession hp c v
      · exact .inr ⟨_, rfl, congrArg _ (plainWrite_withSession s c a v), .inl (plainWrite_phase hp a v)⟩
    · exact .inl rfl
  | reset => exact .inl rfl

end ForgetsSession

/-- Settles O58. -/
theorem sessionIsUnobservableInIdle : Obligations.SessionIsUnobservableInIdle := by
  unfold Obligations.SessionIsUnobservableInIdle
  intro s c e hp
  rcases hostEvent_forgetsSession hp c e with h | ⟨t, h, h', hph⟩
  · exact .inl h
  · exact .inr ⟨t, h, h', hph, memRead_withSession t c⟩

end Sys2Proof.Machine

/-! # Memory family: the host's transactions, register writes, and the two windows -/

/-! ## Transactions (20_memory.md R86 to R88, R97) -/

namespace Sys2Proof.Machine

theorem step_of_script_nil {s : State} (h : s.script = []) : step s = .next s := by
  rw [step, h]

theorem step_of_script_cons {s : State} {e : HostEvent} {es : List HostEvent} (h : s.script = e :: es) :
    step s = hostEvent e (s.setScript es) := by
  rw [step, h]

/-- The accesses of R88. -/
theorem accessOk_iff {a : Word} {n : Nat} : accessOk a n = true ↔ n = 4 ∧ a.toNat % 4 = 0 := by
  simp [accessOk]

theorem hostEvent_read {a : Word} {n : Nat} (h : accessOk a n = true) (s : State) :
    hostEvent (.read a n) s = .next (s.pushRead (memRead s a)) := if_pos h

theorem hostEvent_write {a : Word} {n : Nat} (h : accessOk a n = true) (v : Word) (s : State) :
    hostEvent (.write a n v) s = memWrite s a v := if_pos h

theorem hostEvent_read_refused {a : Word} {n : Nat} (h : ¬ accessOk a n = true) (s : State) :
    hostEvent (.read a n) s = .refused (.accessOutsideInterface a n) := if_neg h

theorem hostEvent_write_refused {a : Word} {n : Nat} (h : ¬ accessOk a n = true) (v : Word) (s : State) :
    hostEvent (.write a n v) s = .refused (.accessOutsideInterface a n) := if_neg h

theorem memWrite_of_ne_cmd {a : Word} (h : a ≠ Reg.addr .cmd) (s : State) (v : Word) :
    memWrite s a v = .next (plainWrite s a v) := if_neg h

/-- No read looks at what the host has still to send. -/
theorem memRead_setScript (s : State) (es : List HostEvent) (a : Word) : memRead (s.setScript es) a = memRead s a := rfl

/-- Settles O2: the step on each kind of head of the script. -/
theorem stepPerformsTheNextTransaction : Obligations.StepPerformsTheNextTransaction := by
  unfold Obligations.StepPerformsTheNextTransaction
  intro s es
  refine ⟨step_of_script_nil, fun a ha hs => ?_, fun a v ha hcmd hs => ?_, step_of_script_cons⟩
  · rw [step_of_script_cons hs, hostEvent_read (accessOk_iff.mpr ⟨rfl, ha⟩), memRead_setScript]
    rfl
  · rw [step_of_script_cons hs, hostEvent_write (accessOk_iff.mpr ⟨rfl, ha⟩), memWrite_of_ne_cmd hcmd]
    rfl

/-- Settles O3. -/
theorem accessOutsideTheInterfaceHasNoStep : Obligations.AccessOutsideTheInterfaceHasNoStep := by
  unfold Obligations.AccessOutsideTheInterfaceHasNoStep
  intro s a v n es hout
  have hno : ¬ accessOk a n = true := by
    rw [accessOk_iff]
    omega
  refine ⟨fun hs => ?_, fun hs => ?_⟩
  · rw [step_of_script_cons hs, hostEvent_read_refused hno]
  · rw [step_of_script_cons hs, hostEvent_write_refused hno]

/-! ## Register writes (10_state.md R31, 20_memory.md R87) -/

/-- A field of `n` bits read as a word: the low `n` bits of what was written. -/
theorem setWidth_setWidth_eq_and (n : Nat) (v : Word) :
    (v.setWidth n).setWidth 32 = v &&& BitVec.ofNat 32 (2 ^ n - 1) := by
  ext k hk
  have hmask : (BitVec.ofNat 32 (2 ^ n - 1))[k] = decide (k < n) := by
    rw [← BitVec.getLsbD_eq_getElem, BitVec.getLsbD_ofNat, Nat.testBit_two_pow_sub_one, decide_eq_true hk,
      Bool.true_and]
  simp [hk, hmask, Bool.and_comm]

/-- A register write changes no other register. -/
theorem readReg_writeReg_ne (s : State) (v : Word) {r r' : Reg} (h : r' ≠ r) :
    readReg (writeReg s v r) r' = readReg s r' := by
  cases r with
  | id | status | cmd | outlen | nframes | rectXY | rectWH | capIn | capOut | capFrames | params => rfl
  | arg0 | arg1 | width | height | scale | psize | quantum | hash =>
    cases r' <;> try rfl
    exact absurd rfl h
  | pal i =>
    cases r' with
    | pal j =>
      have hij : i.val ≠ j.val := fun hv => h (congrArg Reg.pal (Fin.ext hv.symm))
      exact Vector.getElem_set_ne i.isLt j.isLt hij
    | _ => rfl

/-- A palette entry reads back whole. -/
theorem readReg_writeReg_pal (s : State) (v : Word) (i : Fin maxPalette) :
    readReg (writeReg s v (.pal i)) (.pal i) = v := Vector.getElem_set_self i.isLt

/-- What no register write reaches: the memories, the frame store, the session, and the host's side. -/
theorem writeReg_frame (s : State) (v : Word) (r : Reg) :
    (writeReg s v r).out = s.out ∧ (writeReg s v r).inMem = s.inMem ∧ (writeReg s v r).inEpoch = s.inEpoch ∧
      (writeReg s v r).frames = s.frames ∧ (writeReg s v r).session = s.session ∧
      (writeReg s v r).dev = s.dev ∧ (writeReg s v r).script = s.script ∧
      (writeReg s v r).readData = s.readData := by
  cases r <;> exact ⟨rfl, rfl, rfl, rfl, rfl, rfl, rfl, rfl⟩

/-- Settles O10. -/
theorem registerWriteSetsItsUsedBits : Obligations.RegisterWriteSetsItsUsedBits := by
  unfold Obligations.RegisterWriteSetsItsUsedBits
  intro s v r
  refine ⟨?_, fun _ => readReg_writeReg_ne s v, writeReg_frame s v r⟩
  cases r with
  | id | status | cmd | outlen | nframes | rectXY | rectWH | capIn | capOut | capFrames | params => rfl
  | arg0 | arg1 | hash => rfl
  | width | height | scale | quantum => exact setWidth_setWidth_eq_and 16 v
  | psize => exact setWidth_setWidth_eq_and 5 v
  | pal i => exact readReg_writeReg_pal s v i

/-! ## The IN window (20_memory.md R82) -/

@[simp] theorem inWord_setIn_self (s : State) (i : Nat) (v : Word) : (s.setIn i v).inWord i = v := by
  simp [State.inWord]

theorem inWord_setIn_ne (s : State) {i j : Nat} (v : Word) (h : j ≠ i) : (s.setIn i v).inWord j = s.inWord j := by
  simp [State.inWord, Memory.read_write_ne _ _ h]

/-- The word a window has at the address of its word `i`. -/
theorem wordIndex_address (base i : Nat) : (base + 4 * i - base) / 4 = i := by omega

/-- The address of IN[i] for every word a device has. -/
theorem toNat_inAddress {d : Params} (hd : d.wf = true) {i : Nat} (hi : i < d.inWords) :
    (BitVec.ofNat 32 (inBase + 4 * i)).toNat = inBase + 4 * i := by
  obtain ⟨⟨-, hwords⟩, -⟩ := Params.wf_iff.mp hd
  have hmap := addressMap_constants
  rw [BitVec.toNat_ofNat]
  omega

section InWindow

variable {s : State} (hd : s.dev.wf = true) {i : Nat} (hi : i < s.dev.inWords)

include hd hi

theorem memRead_inAddress : memRead s (BitVec.ofNat 32 (inBase + 4 * i)) = s.inWord i := by
  obtain ⟨⟨-, hwords⟩, -⟩ := Params.wf_iff.mp hd
  have hmap := addressMap_constants
  rw [memRead, toNat_inAddress hd hi, if_neg (by omega), if_pos (by omega), wordIndex_address, if_pos hi]

theorem memWrite_inAddress (v : Word) : memWrite s (BitVec.ofNat 32 (inBase + 4 * i)) v = .next (s.setIn i v) := by
  obtain ⟨⟨-, hwords⟩, -⟩ := Params.wf_iff.mp hd
  have hmap := addressMap_constants
  have haddr := toNat_inAddress hd hi
  rw [memWrite_plain (by omega), plainWrite, haddr, if_neg (by omega), if_pos (by omega), wordIndex_address, if_pos hi]

end InWindow

/-- Settles O15. -/
theorem inWordReadsBackAsWritten : Obligations.InWordReadsBackAsWritten := by
  unfold Obligations.InWordReadsBackAsWritten
  intro s i v hd hi
  exact ⟨s.setIn i v, memWrite_inAddress hd hi v, rfl, inWord_setIn_self s i v, fun j => inWord_setIn_ne s v,
    (memRead_inAddress (s := s.setIn i v) hd hi).trans (inWord_setIn_self s i v), memRead_inAddress hd hi⟩

/-! ## The OUT window (20_memory.md R83) -/

theorem outByte_of_outBytes_le {s : State} {k : Nat} (h : s.dev.outBytes ≤ k) : s.outByte k = 0 := if_pos h

/-- Byte lane `b` of the word that holds `x` in lane `c` and 0 in the others. -/
theorem extractLsb'_byteLane (x : Byte) {b : Nat} (hb : b < 4) (c : Nat) :
    (x.setWidth 32 <<< (8 * c)).extractLsb' (8 * b) 8 = if b = c then x else 0 := by
  ext k hk
  have hbit : 8 * b + k < 32 := by omega
  rw [BitVec.getElem_extractLsb', BitVec.getLsbD_shiftLeft, decide_eq_true hbit, Bool.true_and,
    BitVec.getLsbD_setWidth]
  rcases lt_trichotomy b c with hlt | rfl | hgt
  · have hbelow : 8 * b + k < 8 * c := by omega
    simp [hbelow, hlt.ne]
  · have hin : k < 32 := by omega
    simp [hin, BitVec.getLsbD_eq_getElem hk]
  · rw [BitVec.getLsbD_of_ge x _ (by omega)]
    simp [hgt.ne']

/-- A word of the OUT window, lane by lane. -/
theorem outWord_eq_lanes (s : State) (j : Nat) :
    s.outWord j =
      (s.outByte (4 * j)).setWidth 32 <<< (8 * 0) ||| (s.outByte (4 * j + 1)).setWidth 32 <<< (8 * 1) |||
        (s.outByte (4 * j + 2)).setWidth 32 <<< (8 * 2) ||| (s.outByte (4 * j + 3)).setWidth 32 <<< (8 * 3) := by
  simp [State.outWord]

theorem extractLsb'_outWord (s : State) (j : Nat) {b : Nat} (hb : b < 4) :
    (s.outWord j).extractLsb' (8 * b) 8 = s.outByte (4 * j + b) := by
  simp only [outWord_eq_lanes, BitVec.extractLsb'_or, extractLsb'_byteLane _ hb]
  interval_cases b <;> simp

/-- The address of word `j` of the OUT window for every word that has a byte below OUT_BYTES. -/
theorem toNat_outAddress {d : Params} (hd : d.wf = true) {j : Nat} (hj : 4 * j < d.outBytes) :
    (BitVec.ofNat 32 (outBase + 4 * j)).toNat = outBase + 4 * j := by
  obtain ⟨-, ⟨-, hbytes⟩, -⟩ := Params.wf_iff.mp hd
  have hmap := addressMap_constants
  rw [BitVec.toNat_ofNat]
  omega

/-- Word `j` of the OUT window, at its address, while its first byte is below OUT_BYTES. -/
theorem memRead_outAddress {s : State} (hd : s.dev.wf = true) {j : Nat} (hj : 4 * j < s.dev.outBytes) :
    memRead s (BitVec.ofNat 32 (outBase + 4 * j)) = s.outWord j := by
  have hmap := addressMap_constants
  have haddr := toNat_outAddress hd hj
  obtain ⟨-, ⟨-, hbytes⟩, -⟩ := Params.wf_iff.mp hd
  rw [memRead, haddr, if_neg (by omega), if_neg (by omega), if_pos (by omega), if_pos (by omega), wordIndex_address]

/-- Settles O16. -/
theorem outWindowReadsBytesLittleEndian : Obligations.OutWindowReadsBytesLittleEndian := by
  unfold Obligations.OutWindowReadsBytesLittleEndian
  intro s j hd hj
  have hread : memRead s (BitVec.ofNat 32 (0x02000000 + 4 * j)) = s.outWord j := memRead_outAddress hd hj
  have haddr : (BitVec.ofNat 32 (0x02000000 + 4 * j)).toNat = 0x02000000 + 4 * j := toNat_outAddress hd hj
  rw [hread]
  refine ⟨fun b => extractLsb'_outWord s j, fun k => outByte_of_outBytes_le, fun v => ?_⟩
  rw [memWrite_plain (by omega), plainWrite_of_outBase_le (by omega)]

end Sys2Proof.Machine

/-! # Encoding family: the command word, the permission table, and the script lines -/

/-! ## The command word (30_encoding.md R111, R112, R116, R119) -/

namespace Sys2Proof.Machine

theorem toNat_opcodeField (w : Word) : (opcodeField w).toNat = w.toNat / 2 ^ 24 := by
  have hw := w.isLt
  rw [opcodeField, BitVec.extractLsb'_toNat, Nat.shiftRight_eq_div_pow]
  omega

theorem toNat_rsvdField (w : Word) : (rsvdField w).toNat = w.toNat % 2 ^ 24 := by
  rw [rsvdField, BitVec.extractLsb'_toNat, Nat.shiftRight_zero]

theorem toNat_encode (i : Instr) : (encode i).toNat = (opcodeOf i).toNat * 2 ^ 24 := by cases i <;> rfl

/-- A word is a command's word exactly when its two fields are. -/
theorem eq_encode_iff {w : Word} {i : Instr} : w = encode i ↔ opcodeField w = opcodeOf i ∧ rsvdField w = 0 := by
  have hop := toNat_opcodeField w
  have hrsvd := toNat_rsvdField w
  rw [← BitVec.toNat_inj, ← BitVec.toNat_inj, ← BitVec.toNat_inj, toNat_encode, hop, hrsvd,
    show (0 : BitVec 24).toNat = 0 from rfl]
  omega

/-- A row that is found stands in the table. -/
theorem mem_of_findOpcode {op : BitVec 8} {i : Instr} {rows : List (BitVec 8 × Instr)}
    (h : findOpcode op rows = some i) : (op, i) ∈ rows := by
  induction rows with
  | nil => cases h
  | cons row rows ih =>
    unfold findOpcode at h
    split at h
    · rename_i ho
      cases h
      exact ho ▸ List.mem_cons_self
    · exact List.mem_cons_of_mem _ (ih h)

/-- The opcode map and the encoder name the same opcodes. -/
theorem findOpcode_opcodeTable {op : BitVec 8} {i : Instr} :
    findOpcode op opcodeTable = some i ↔ op = opcodeOf i := by
  refine ⟨fun h => ?_, ?_⟩
  · have hrows : ∀ row ∈ opcodeTable, row.1 = opcodeOf row.2 := by decide
    exact hrows (op, i) (mem_of_findOpcode h)
  · rintro rfl
    cases i <;> rfl

theorem decode_eq_ok_iff {w : Word} {i : Instr} : decode w = .ok i ↔ w = encode i := by
  rw [eq_encode_iff, ← findOpcode_opcodeTable]
  unfold decode
  cases findOpcode (opcodeField w) opcodeTable with
  | none => simp
  | some j =>
    dsimp only
    split
    · rename_i hr; simp [hr]
    · rename_i hr; exact ⟨fun h => (nomatch h), fun ⟨_, hz⟩ => absurd hz hr⟩

@[simp] theorem decode_encode (i : Instr) : decode (encode i) = .ok i := decode_eq_ok_iff.mpr rfl

/-- The ten words of 30_encoding.md R112, as the opcode map writes them out. -/
def commandWords : List (Word × Instr) :=
  [(0x00000000#32, .nop), (0x01000000#32, .softReset), (0x10000000#32, .configure), (0x11000000#32, .addFrame),
    (0x12000000#32, .finish), (0x13000000#32, .diffRect), (0x20000000#32, .lzwEncode), (0x30000000#32, .hashInit),
    (0x31000000#32, .hashExtend), (0x32000000#32, .hashSeq)]

theorem mem_commandWords {w : Word} {i : Instr} : (w, i) ∈ commandWords ↔ w = encode i := by
  refine ⟨fun h => ?_, ?_⟩
  · have hrows : ∀ row ∈ commandWords, row.1 = encode row.2 := by decide
    exact hrows (w, i) h
  · rintro rfl
    cases i <;> decide

/-- Settles O8: the decoder accepts exactly the encoder's words, and the table lists those. -/
theorem legalWordsAreTheTenOfTheTable : Obligations.LegalWordsAreTheTenOfTheTable := by
  unfold Obligations.LegalWordsAreTheTenOfTheTable
  exact ⟨fun w i => decode_eq_ok_iff.trans mem_commandWords.symm, decode_encode⟩

/-- Settles O7: seven closed words. -/
theorem commandWordsDecodeFromTheOpcodeMap : Obligations.CommandWordsDecodeFromTheOpcodeMap := by
  unfold Obligations.CommandWordsDecodeFromTheOpcodeMap
  decide

/-! ## The command port (30_encoding.md R110; 10_state.md R37) -/

theorem runCommand_of_decode {w : Word} {i : Instr} (h : decode w = .ok i) (s : State) : runCommand w s = exec i s := by
  rw [runCommand, h]

theorem runCommand_of_illegal {w : Word} (h : ∀ i, decode w ≠ .ok i) (s : State) :
    runCommand w s = .next (illegalWord s) := by
  rcases runCommand_cases w s with ⟨i, hi, -⟩ | ⟨r, -, he⟩
  · exact absurd hi (h i)
  · exact he

theorem illegalWord_of_ne_fault {s : State} (h : s.phase ≠ .fault) : illegalWord s = raiseFault .illegalCommand s :=
  if_neg h

theorem illegalWord_of_fault {s : State} (h : s.phase = .fault) : illegalWord s = s := if_pos h

theorem toNat_opcodeOf_mem (i : Instr) :
    (opcodeOf i).toNat ∈ [0x00, 0x01, 0x10, 0x11, 0x12, 0x13, 0x20, 0x30, 0x31, 0x32] := by cases i <;> decide

/-- The two causes of R116, each on its own, shut every command out. -/
theorem decode_ne_ok_of_illegal {w : Word}
    (h : w.toNat / 2 ^ 24 ∉ [0x00, 0x01, 0x10, 0x11, 0x12, 0x13, 0x20, 0x30, 0x31, 0x32] ∨ w.toNat % 2 ^ 24 ≠ 0)
    (i : Instr) : decode w ≠ .ok i := by
  intro hd
  obtain ⟨hop, hrsvd⟩ := eq_encode_iff.mp (decode_eq_ok_iff.mp hd)
  rcases h with h | h
  · rw [← toNat_opcodeField, hop] at h
    exact h (toNat_opcodeOf_mem i)
  · rw [← toNat_rsvdField, hrsvd] at h
    exact h rfl

/-- Settles O9. -/
theorem illegalWordsRaiseIllegalCommand : Obligations.IllegalWordsRaiseIllegalCommand := by
  unfold Obligations.IllegalWordsRaiseIllegalCommand
  intro s w h
  rw [runCommand_of_illegal (decode_ne_ok_of_illegal h)]
  exact ⟨fun hp => congrArg _ (illegalWord_of_ne_fault hp), fun hp => congrArg _ (illegalWord_of_fault hp)⟩

/-! ## A CMD write in the script (30_encoding.md R110, R125) -/

theorem Reg.accessOk_addr (r : Reg) : accessOk r.addr 4 = true := by
  rw [accessOk_iff, Reg.toNat_addr]
  cases r with
  | pal i => exact ⟨rfl, by simp only [Reg.offset]; omega⟩
  | _ => decide

theorem hostEvent_writeCmd (w : Word) (s : State) : hostEvent (writeTo .cmd w) s = runCommand w s := by
  rw [writeTo, hostEvent_write (Reg.accessOk_addr .cmd), memWrite_cmd]

theorem hostEvent_issueCommand (i : Instr) (s : State) : hostEvent (issueCommand i) s = exec i s := by
  rw [issueCommand, hostEvent_writeCmd, runCommand_of_decode (decode_encode i)]

/-- Settles O1. -/
theorem stepRunsTheDecodedCommand : Obligations.StepRunsTheDecodedCommand := by
  unfold Obligations.StepRunsTheDecodedCommand
  intro s w i es hs hd
  calc step s = hostEvent (writeTo .cmd w) (s.setScript es) := step_of_script_cons hs
    _ = runCommand w (s.setScript es) := hostEvent_writeCmd w _
    _ = exec i (s.setScript es) := runCommand_of_decode hd _

/-- A whole command word is its own table word (20_memory.md R85). -/
@[simp] theorem tableWord_toNat (w : Word) : tableWord 32 w.toNat = w := by
  rw [tableWord, Nat.mod_eq_of_lt w.isLt, BitVec.ofNat_toNat, BitVec.setWidth_eq]

/-- Settles O4. -/
theorem placedCommandWordRunsNext : Obligations.PlacedCommandWordRunsNext := by
  unfold Obligations.PlacedCommandWordRunsNext
  intro s i
  have hplaced : (s.withFetchWord 32 (encode i).toNat).script = issueCommand i :: s.script := by
    simp [State.withFetchWord, State.setScript, issueCommand, writeTo]
  refine ⟨by simp [decodeTableWord], ?_⟩
  rw [step_of_script_cons hplaced, hostEvent_issueCommand]
  rfl

/-! ## The permission table (30_encoding.md R118) -/

/-- The pairs outside FAULT in which the table says no. -/
def forbiddenPairs : List (Instr × Phase) :=
  [(.configure, .accumulating), (.configure, .finalized), (.addFrame, .idle), (.addFrame, .finalized),
    (.finish, .idle), (.finish, .finalized), (.diffRect, .idle), (.lzwEncode, .accumulating), (.lzwEncode, .finalized)]

theorem mem_forbiddenPairs {i : Instr} {p : Phase} :
    (i, p) ∈ forbiddenPairs ↔ allowed i p = false ∧ p ≠ .fault := by cases i <;> cases p <;> decide

theorem exec_of_forbidden {i : Instr} {s : State} (h : (i, s.phase) ∈ forbiddenPairs) :
    exec i s = .next (raiseFault .badState s) := by
  obtain ⟨ha, hp⟩ := mem_forbiddenPairs.mp h
  simp [exec_eq_issue, issue, ha, hp]

theorem exec_of_allowed {i : Instr} {s : State} (h : allowed i s.phase = true) : exec i s = .next (effect i s) := by
  rw [exec_eq_issue, issue_allowed h]

theorem exec_of_fault {i : Instr} {s : State} (hp : s.phase = .fault) (hi : i ≠ .softReset) : exec i s = .next s := by
  have ha : ¬ allowed i s.phase = true := fun h => ne_fault_of_allowed hi h hp
  rw [exec_eq_issue, issue, if_neg ha, if_pos hp]

/-! ### What the effects raise, in any state

Outside the invariant FINISH can meet an empty rectangle, so the compressor's EMPTY_INPUT joins the running faults. -/

theorem lzwStream_error_cases {d : Params} {p : PaletteSize} {sym : List Nat} {f : FaultCode}
    (h : lzwStream d p sym = .error f) : f.isRunning ∨ f = .emptyInput := by
  by_cases hne : sym = []
  · subst hne
    cases h
    exact .inr rfl
  · exact .inl (.inl (lzwStream_error hne h))

theorem emitFrame_error {s : State} {acc f : Nat} {r : Rect} {b : OutBuf} {e : FaultCode}
    (h : emitFrame s acc f r b = .error e) : e.isRunning ∨ e = .emptyInput := by
  have overflow {b : OutBuf} {ys : List Byte} {e : FaultCode} (he : outAppendAll s.dev.outBytes b ys = .error e) :
      e.isRunning ∨ e = .emptyInput := .inl (.inr (outAppendAll_error he))
  unfold emitFrame at h
  dsimp only at h
  split at h
  · rename_i he; cases h; exact overflow he
  · split at h
    · rename_i he; cases h; exact overflow he
    · split at h
      · rename_i he; cases h; exact lzwStream_error_cases he
      · exact overflow h

theorem finishFrame_error {s : State} {f : Nat} {k : FinishPass} {b : OutBuf} {e : FaultCode}
    (h : finishFrame s f k b = .error e) : e.isRunning ∨ e = .emptyInput := by
  unfold finishFrame at h
  dsimp only at h
  split at h
  · cases h
  · split at h
    · cases h
    · split at h
      · rename_i he; cases h; exact emitFrame_error he
      · cases h

theorem finishLoop_error {s : State} {e : FaultCode} {fs : List Nat} :
    ∀ {k : FinishPass} {b : OutBuf}, finishLoop s fs k b = .error e → e.isRunning ∨ e = .emptyInput := by
  induction fs with
  | nil => intro k b h; cases h
  | cons f fs ih =>
    intro k b h
    unfold finishLoop at h
    split at h
    · rename_i he; cases h; exact finishFrame_error he
    · exact ih h

theorem finishOut_error {s : State} {e : FaultCode} (h : finishOut s = .error e) : e.isRunning ∨ e = .emptyInput := by
  unfold finishOut at h
  split at h
  · exact .inl (.inr (outAppendAll_error h))
  · split at h
    · rename_i he; cases h; exact finishLoop_error he
    · exact .inl (.inr (outAppendAll_error h))

theorem ne_badState_of_run {e : FaultCode} (h : e.isRunning ∨ e = .emptyInput) : e ≠ .badState := by
  rintro rfl
  simp [FaultCode.isRunning] at h

section NoBadState

variable {s : State} (h : s.faultCode ≠ .badState)

include h

theorem configureBody_ne_badState : (configureBody s).faultCode ≠ .badState := by
  rcases configureBody_cases s with ⟨-, he⟩ | ⟨p, -, ⟨-, he⟩ | ⟨b, -, he⟩⟩ <;> simp [he, h]

theorem addFrameBody_ne_badState : (addFrameBody s).faultCode ≠ .badState := by
  rcases addFrameBody_cases s with ⟨-, he⟩ | ⟨-, -, he⟩ | ⟨-, -, he⟩ <;> simp [he, h]

theorem finishBody_ne_badState : (finishBody s).faultCode ≠ .badState := by
  rcases finishBody_cases s with ⟨e, hf, he⟩ | ⟨b, -, he⟩
  · simpa [he] using ne_badState_of_run (finishOut_error hf)
  · simpa [he] using h

theorem diffRectBody_ne_badState : (diffRectBody s).faultCode ≠ .badState := by
  rcases diffRectBody_cases s with ⟨-, he⟩ | ⟨-, -, he⟩
  · simp [he]
  · rw [he]
    cases bbox (s.frame s.arg0Nat) (s.frame s.arg1Nat) s.session.width.toNat s.session.height.toNat <;> exact h

theorem lzwEncodeRun_ne_badState (p : PaletteSize) : (lzwEncodeRun s p).faultCode ≠ .badState := by
  rcases lzwEncodeRun_cases s p with ⟨f, hf, he⟩ | ⟨bytes, -, ⟨-, he⟩ | ⟨b, -, he⟩⟩
  · simpa [he] using ne_badState_of_run (lzwStream_error_cases hf)
  · simp [he]
  · simpa [he] using h

theorem lzwEncodeBody_ne_badState : (lzwEncodeBody s).faultCode ≠ .badState := by
  rcases lzwEncodeBody_cases s with ⟨-, he⟩ | ⟨p, -, ⟨-, he⟩ | ⟨-, -, he⟩ | ⟨-, -, he⟩⟩
  · simp [he]
  · simp [he]
  · simp [he]
  · rw [he]; exact lzwEncodeRun_ne_badState h p

theorem hashSeqBody_ne_badState : (hashSeqBody s).faultCode ≠ .badState := by
  rcases hashSeqBody_cases s with ⟨-, he⟩ | ⟨-, he⟩ <;> simp [he, h]

/-- No command's own rule raises BAD_STATE: only the permission check does. -/
theorem effect_ne_badState (i : Instr) : (effect i s).faultCode ≠ .badState := by
  cases i with
  | nop | hashInit | hashExtend => exact h
  | softReset => exact FaultCode.noConfusion
  | configure => exact configureBody_ne_badState h
  | addFrame => exact addFrameBody_ne_badState h
  | finish => exact finishBody_ne_badState h
  | diffRect => exact diffRectBody_ne_badState h
  | lzwEncode => exact lzwEncodeBody_ne_badState h
  | hashSeq => exact hashSeqBody_ne_badState h

end NoBadState

/-- Settles O21. -/
theorem badStateExactlyWhereTheTableForbids : Obligations.BadStateExactlyWhereTheTableForbids := by
  unfold Obligations.BadStateExactlyWhereTheTableForbids
  intro i s
  refine ⟨exec_of_forbidden, exec_of_fault, ?_, fun hyes hp hnone t ht => ?_⟩
  · rintro rfl
    exact exec_of_allowed rfl
  · have ha : allowed i s.phase = true := by
      by_contra hno
      exact hyes (mem_forbiddenPairs.mpr ⟨by simpa using hno, hp⟩)
    rw [exec_of_allowed ha] at ht
    cases ht
    exact effect_ne_badState (by simp [hnone]) i

/-! ## Script lines (30_encoding.md R125, R127 to R129) -/

@[simp] theorem runEvents_nil (s : State) : runEvents [] s = .next s := rfl

theorem runEvents_cons {e : HostEvent} {s t : State} (h : hostEvent e s = .next t) (es : List HostEvent) :
    runEvents (e :: es) s = runEvents es t := by
  rw [runEvents, h]

theorem runEvents_singleton (e : HostEvent) (s : State) : runEvents [e] s = hostEvent e s := by
  unfold runEvents
  cases hostEvent e s <;> rfl

theorem hostEvent_writeTo {r : Reg} (hr : r ≠ .cmd) (v : Word) (s : State) :
    hostEvent (writeTo r v) s = .next (writeReg s v r) := by
  rw [writeTo, hostEvent_write r.accessOk_addr, memWrite_addr s v hr]

theorem hostEvent_writeIn {s : State} (hd : s.dev.wf = true) {i : Nat} (hi : i < s.dev.inWords) (v : Word) :
    hostEvent (writeIn i v) s = .next (s.setIn i v) := by
  have haligned : (inBase + 4 * i) % 4 = 0 := by
    have hmap := addressMap_constants
    omega
  rw [writeIn, hostEvent_write (accessOk_iff.mpr ⟨rfl, by rw [toNat_inAddress hd hi, haligned]⟩),
    memWrite_inAddress hd hi]

/-- What stands at index `j`, where `w` stood, after `vs` has been written to the indices from `k` on. -/
def overwritten (k : Nat) (vs : List Word) (j : Nat) (w : Word) : Word := if j < k then w else vs.getD (j - k) w

@[simp] theorem overwritten_nil (k j : Nat) (w : Word) : overwritten k [] j w = w := by simp [overwritten]

@[simp] theorem overwritten_zero (vs : List Word) (j : Nat) (w : Word) : overwritten 0 vs j w = vs.getD j w := rfl

/-- The first write, then the others. -/
theorem overwritten_cons (k : Nat) (v : Word) (vs : List Word) (j : Nat) (w : Word) :
    overwritten k (v :: vs) j w = overwritten (k + 1) vs j (if j = k then v else w) := by
  unfold overwritten
  rcases lt_trichotomy j k with h | rfl | h
  · simp [h, h.ne, Nat.lt_succ_of_lt h]
  · simp
  · obtain ⟨d, rfl⟩ := Nat.exists_eq_add_of_lt h
    rw [if_neg (by omega), if_neg (by omega), if_neg (by omega), show k + d + 1 - k = d + 1 by omega,
      show k + d + 1 - (k + 1) = d by omega, List.getD_cons_succ]

theorem inWord_setIn (s : State) (k : Nat) (v : Word) (j : Nat) :
    (s.setIn k v).inWord j = if j = k then v else s.inWord j := by
  split
  · rename_i h; rw [h, inWord_setIn_self]
  · rename_i h; exact inWord_setIn_ne s v h

/-- LOADIN from word `k` on (R128): one IN write after another. -/
theorem runEvents_writeInFrom (vs : List Word) :
    ∀ {k : Nat} {s : State}, s.dev.wf = true → k + vs.length ≤ s.dev.inWords →
      ∃ t, runEvents (writeInFrom k vs) s = .next t ∧ t = { s with inMem := t.inMem } ∧
        ∀ j, t.inWord j = overwritten k vs j (s.inWord j) := by
  induction vs with
  | nil => intro k s _ _; exact ⟨s, rfl, rfl, by simp⟩
  | cons v vs ih =>
    intro k s hd hroom
    rw [List.length_cons] at hroom
    obtain ⟨t, hrun, hframe, hword⟩ := ih (k := k + 1) (s := s.setIn k v) hd (by rw [setIn_dev]; omega)
    refine ⟨t, ?_, hframe, fun j => ?_⟩
    · rw [writeInFrom, runEvents_cons (hostEvent_writeIn hd (by omega) v), hrun]
    · rw [hword, inWord_setIn, overwritten_cons]

theorem readReg_writeReg_pal_eq (s : State) {k : Nat} (hk : k < 16) (v : Word) (q : Fin maxPalette) :
    readReg (writeReg s v (.pal (Fin.ofNat maxPalette k))) (.pal q) = if q.val = k then v else readReg s (.pal q) := by
  have hval : (Fin.ofNat maxPalette k).val = k := Nat.mod_eq_of_lt hk
  split
  · rename_i h
    rw [Fin.ext (h.trans hval.symm), readReg_writeReg_pal]
  · rename_i h
    refine readReg_writeReg_ne s v fun he => h ?_
    rw [Reg.pal.inj he, hval]

/-- SETPAL from entry `k` on (R129): one palette write after another. -/
theorem runEvents_writePalFrom (cs : List Word) :
    ∀ {k : Nat} {s : State}, k + cs.length ≤ 16 →
      ∃ t, runEvents (writePalFrom k cs) s = .next t ∧ t = { s with palette := t.palette } ∧
        ∀ q : Fin maxPalette, readReg t (.pal q) = overwritten k cs q.val (readReg s (.pal q)) := by
  induction cs with
  | nil => intro k s _; exact ⟨s, rfl, rfl, by simp⟩
  | cons c cs ih =>
    intro k s hroom
    rw [List.length_cons] at hroom
    obtain ⟨t, hrun, hframe, hentry⟩ :=
      ih (k := k + 1) (s := writeReg s c (.pal (Fin.ofNat maxPalette k))) (by omega)
    refine ⟨t, ?_, hframe, fun q => ?_⟩
    · rw [writePalFrom, runEvents_cons (hostEvent_writeTo Reg.noConfusion c s), hrun]
    · rw [hentry, readReg_writeReg_pal_eq s (by omega), overwritten_cons]

/-- RUN with one operand (R127). -/
theorem runEvents_run_one (i : Instr) (a0 : Word) (s : State) :
    runEvents (ScriptLine.run i a0 none).events s = exec i { s with arg0 := a0 } := by
  rw [ScriptLine.events, runEvents_cons (hostEvent_writeTo Reg.noConfusion a0 s), runEvents_singleton,
    hostEvent_issueCommand]
  rfl

/-- RUN with two operands (R127). -/
theorem runEvents_run_two (i : Instr) (a0 a1 : Word) (s : State) :
    runEvents (ScriptLine.run i a0 (some a1)).events s = exec i { s with arg0 := a0, arg1 := a1 } := by
  rw [ScriptLine.events, runEvents_cons (hostEvent_writeTo Reg.noConfusion a0 s),
    runEvents_cons (hostEvent_writeTo Reg.noConfusion a1 _), runEvents_singleton, hostEvent_issueCommand]
  rfl

/-- Settles O6: the events of each line, run in order. -/
theorem scriptLinesDoWhatTheyExpandTo : Obligations.ScriptLinesDoWhatTheyExpandTo := by
  unfold Obligations.ScriptLinesDoWhatTheyExpandTo
  intro s
  refine ⟨fun i a0 => runEvents_run_one i a0 s, fun i a0 a1 => runEvents_run_two i a0 a1 s, fun vs hd hlen => ?_,
    fun cs hlen => ?_⟩
  · exact runEvents_writeInFrom vs (k := 0) hd (by rwa [Nat.zero_add])
  · exact runEvents_writePalFrom cs (k := 0) (by rwa [Nat.zero_add])

end Sys2Proof.Machine

/-! # Container family: CONFIGURE, ADD_FRAME, DIFF_RECT and FINISH -/

/-! ## CONFIGURE and its header (40_container.md R140 to R142) -/

namespace Sys2Proof.Machine

theorem Params.outBytes_lt {d : Params} (hd : d.wf = true) : d.outBytes < 2 ^ 32 := by
  obtain ⟨-, ⟨-, hle⟩, -⟩ := Params.wf_iff.mp hd
  omega

theorem lo8_eq (v : Nat) : lo8 v = BitVec.ofNat 8 v := by
  rw [lo8, ← BitVec.toNat_inj, BitVec.toNat_ofNat, BitVec.toNat_ofNat, Nat.mod_mod]

theorem hi8_eq (v : Nat) : hi8 v = BitVec.ofNat 8 (v / 256) := lo8_eq (v / 256)

@[simp] theorem le16_eq (v : Nat) : le16 v = [BitVec.ofNat 8 v, BitVec.ofNat 8 (v / 256)] := by
  rw [le16, lo8_eq, hi8_eq]

theorem lsdPacked_eq (p : PaletteSize) :
    lsdPacked p = match p with | .four => 0x99 | .eight => 0x9A | .sixteen => 0x9B := by cases p <;> decide

/-- The header is 29 bytes around the colours, 3 bytes for each colour, and the three bytes of a packed LSD
(40_container.md R142). -/
theorem length_headerBytes (c : Session) : (headerBytes c).length = 32 + 3 * c.palette.length := by
  have hgct : (gctBytes c).length = 3 * c.palette.length := by
    simp [gctBytes, rgb, List.length_flatMap, Nat.mul_comm]
  simp only [headerBytes, List.length_append, hgct, lsdBytes, le16_eq, sigBytes, appExtBytes, List.length_cons,
    List.length_nil]
  omega

theorem length_paletteWords (s : State) (p : PaletteSize) : (s.paletteWords p.toNat).length = p.toNat := by
  rw [State.paletteWords, List.length_take, length_palette]
  cases p <;> rfl

theorem length_headerBytes_latched (s : State) (p : PaletteSize) :
    (headerBytes (s.latched p)).length = 32 + 3 * p.toNat := by
  rw [length_headerBytes, State.latched, length_paletteWords]

theorem exec_configure {s : State} (hp : s.phase = .idle) : exec .configure s = .next (configureBody s) :=
  exec_of_allowed (allowed_configure.mpr hp)

/-- CONFIGURE of an accepted configuration whose header fits. -/
theorem configureRun_ok {s : State} {p : PaletteSize} (hd : s.dev.wf = true)
    (hroom : 32 + 3 * p.toNat ≤ s.dev.outBytes) :
    ∃ b : OutBuf, b.Holds (headerBytes (s.latched p)) ∧
      configureRun s p = ((s.setSession (s.latched p)).setOut b).setPhase .accumulating := by
  obtain ⟨b, hb, hholds, -⟩ := outAppendAll_ok (Params.outBytes_lt hd) (headerBytes (s.latched p)) s.out.holds_clear
    (by rw [length_headerBytes_latched, List.length_nil, Nat.zero_add]; exact hroom)
  exact ⟨b, hholds, by simp only [configureRun, hb]⟩

/-- CONFIGURE of an accepted configuration whose header does not fit. -/
theorem configureRun_overflow {s : State} {p : PaletteSize} (hd : s.dev.wf = true)
    (hroom : s.dev.outBytes < 32 + 3 * p.toNat) :
    configureRun s p = raiseRunningFault .outOverflow (s.setSession (s.latched p)) := by
  have hover := outAppendAll_overflow (Params.outBytes_lt hd) (headerBytes (s.latched p)) s.out.holds_clear
    (Nat.zero_le _) (by rw [length_headerBytes_latched, List.length_nil, Nat.zero_add]; exact hroom)
  simp only [configureRun, hover]

/-- Settles O45. -/
theorem configureLatchesAndWritesTheHeader : Obligations.ConfigureLatchesAndWritesTheHeader := by
  unfold Obligations.ConfigureLatchesAndWritesTheHeader
  intro s p hd hp hps hw hh hs hpix hnodup hroom
  have hc : configurable s p := ⟨PaletteSize.ofReg_eq_some.mpr hps, hw, hh, hs, hpix, hnodup⟩
  obtain ⟨b, hb, hrun⟩ := configureRun_ok (p := p) hd hroom
  have hlen := length_headerBytes_latched s p
  have hfits : (headerBytes (s.latched p)).length ≤ s.dev.outBytes := by rw [hlen]; exact hroom
  refine ⟨_, exec_configure hp, ?_⟩
  rw [configureBody_of_configurable hc, hrun]
  refine ⟨rfl, hb.2.trans hlen, rfl, ?_⟩
  rw [outBytes_of_holds (s := ((s.setSession (s.latched p)).setOut b).setPhase .accumulating) hb hfits]
  simp only [headerBytes, lsdBytes, le16_eq, lsdPacked_eq]
  rfl

/-- Two equal colours among the first P entries shut the configuration out. -/
theorem not_configurable_of_repeat {s : State} {i j : Nat} (hij : i < j) (hj : j < s.psize.toNat)
    (heq : s.palette.toList[i]? = s.palette.toList[j]?) (p : PaletteSize) : ¬ configurable s p := by
  rintro ⟨hp, -, -, -, -, hnodup⟩
  rw [PaletteSize.ofReg_eq_some.mp hp] at hj
  refine List.nodup_iff_getElem?_ne_getElem?.mp hnodup i j hij (by rwa [length_paletteWords]) ?_
  simp only [State.paletteWords, List.getElem?_take, if_pos hj, if_pos (hij.trans hj), heq]

/-- Settles O46. -/
theorem configureRefusesBadConfigurations : Obligations.ConfigureRefusesBadConfigurations := by
  unfold Obligations.ConfigureRefusesBadConfigurations
  intro s hp
  refine ⟨fun hbad => ?_, fun hps hw hh hs hpix hnodup hd hroom => ?_⟩
  · have hno : ∀ p, ¬ configurable s p := by
      intro p hc
      obtain ⟨hps, hw, hh, hs, hpix, -⟩ := id hc
      rcases hbad with hbad | hbad | hbad | hbad | hbad | ⟨i, j, hij, hj, -, heq⟩
      · rw [PaletteSize.ofReg_eq_none.mpr hbad] at hps
        cases hps
      · exact hw hbad
      · exact hh hbad
      · exact hs hbad
      · omega
      · exact not_configurable_of_repeat hij hj heq p hc
    rw [exec_configure hp, configureBody_of_not_configurable hno]
    rfl
  · cases hreg : PaletteSize.ofReg s.psize with
    | none => exact absurd hps (PaletteSize.ofReg_eq_none.mp hreg)
    | some p =>
      rw [PaletteSize.ofReg_eq_some.mp hreg] at hnodup hroom
      have hc : configurable s p := ⟨hreg, hw, hh, hs, hpix, hnodup⟩
      refine ⟨_, exec_configure hp, ?_⟩
      rw [configureBody_of_configurable hc, configureRun_overflow hd hroom]
      exact ⟨rfl, rfl⟩

/-! ## ADD_FRAME and LOOKUP (40_container.md R150, R151) -/

/-- Settles O47. -/
theorem addFrameStoresTheLookedUpPixels : Obligations.AddFrameStoresTheLookedUpPixels := by
  unfold Obligations.AddFrameStoresTheLookedUpPixels
  intro s hp
  have hexec : exec .addFrame s = .next (addFrameBody s) := exec_of_allowed (allowed_addFrame.mpr hp)
  rw [hexec]
  rcases addFrameBody_cases s with ⟨hdim, he⟩ | ⟨hdim, hfull, he⟩ | ⟨hdim, hfull, he⟩ <;> rw [he]
  · exact ⟨fun h => absurd h hdim, fun _ => rfl, fun h => absurd h hdim⟩
  · exact ⟨fun _ h => absurd hfull h.ne, fun h => absurd hdim h, fun _ _ => rfl⟩
  · refine ⟨fun _ _ => ?_, fun h => absurd hdim h, fun _ h => absurd h hfull⟩
    rw [State.inWords, List.map_map]
    rfl

theorem colourIndex_of_not_mem {c : Word} {qs : List Word} (h : c ∉ qs) : ∀ k, colourIndex c qs k = none := by
  induction qs with
  | nil => intro k; rfl
  | cons q qs ih =>
    obtain ⟨hq, hqs⟩ := List.ne_and_not_mem_of_not_mem_cons h
    intro k
    rw [colourIndex, if_neg (Ne.symm hq), ih hqs]

theorem colourIndex_of_getElem? {c : Word} {qs : List Word} (hnodup : qs.Nodup) :
    ∀ {j : Nat} (k : Nat), qs[j]? = some c → colourIndex c qs k = some (k + j) := by
  induction qs with
  | nil => intro j k h; cases h
  | cons q qs ih =>
    obtain ⟨hq, hqs⟩ := List.nodup_cons.mp hnodup
    intro j k h
    cases j with
    | zero => cases h; exact if_pos rfl
    | succ j =>
      rw [List.getElem?_cons_succ] at h
      have hne : q ≠ c := by rintro rfl; exact hq (List.mem_of_getElem? h)
      rw [colourIndex, if_neg hne, ih hqs (k + 1) h]
      congr 1
      omega

/-- Settles O48. -/
theorem lookupFindsTheEntryOrTheSentinel : Obligations.LookupFindsTheEntryOrTheSentinel := by
  unfold Obligations.LookupFindsTheEntryOrTheSentinel
  intro palette c hnodup
  refine ⟨fun j h => ?_, fun h => ?_⟩
  · rw [lookup, colourIndex_of_getElem? hnodup 0 h, Option.getD_some, Nat.zero_add]
  · rw [lookup, colourIndex_of_not_mem h]
    rfl

/-! ## The difference detector (40_container.md R165, R180) -/

theorem mem_diffPixels {a b : List Nat} {w h x y : Nat} :
    (x, y) ∈ diffPixels a b w h ↔ x < w ∧ y < h ∧ pixelAt a w x y ≠ pixelAt b w x y := by
  simp only [diffPixels, List.mem_flatMap, List.mem_map, List.mem_filter, List.mem_range, bne_iff_ne, Prod.mk.injEq]
  constructor
  · rintro ⟨y', hy, x', ⟨hx, hne⟩, rfl, rfl⟩
    exact ⟨hx, hy, hne⟩
  · rintro ⟨hx, hy, hne⟩
    exact ⟨y, hy, x, ⟨hx, hne⟩, rfl, rfl⟩

theorem diffPixels_self (a : List Nat) (w h : Nat) : diffPixels a a w h = [] := by simp [diffPixels]

theorem diffPixels_comm (a b : List Nat) (w h : Nat) : diffPixels a b w h = diffPixels b a w h := by
  simp only [diffPixels, bne_comm]

theorem leastOf_spec (n : Nat) (ns : List Nat) : leastOf n ns ∈ n :: ns ∧ ∀ m ∈ n :: ns, leastOf n ns ≤ m :=
  List.min?_eq_some_iff.mp List.min?_cons'

theorem greatestOf_spec (n : Nat) (ns : List Nat) : greatestOf n ns ∈ n :: ns ∧ ∀ m ∈ n :: ns, m ≤ greatestOf n ns :=
  List.max?_eq_some_iff.mp List.max?_cons'

/-- A rectangle is the minimal one around the pixels `D`: it holds all of them and each of its edges holds one. -/
structure Rect.Minimal (r : Rect) (D : Nat → Nat → Prop) : Prop where
  holds : ∀ x y, D x y → r.x ≤ x ∧ x < r.x + r.w ∧ r.y ≤ y ∧ y < r.y + r.h
  left : ∃ y, D r.x y
  right : ∃ y, D (r.x + r.w - 1) y
  top : ∃ x, D x r.y
  bottom : ∃ x, D x (r.y + r.h - 1)

theorem exists_mem_of_mem_fst {ds : List (Nat × Nat)} {x : Nat} (h : x ∈ ds.map Prod.fst) : ∃ y, (x, y) ∈ ds := by
  obtain ⟨⟨_, y⟩, hm, rfl⟩ := List.mem_map.mp h
  exact ⟨y, hm⟩

theorem exists_mem_of_mem_snd {ds : List (Nat × Nat)} {y : Nat} (h : y ∈ ds.map Prod.snd) : ∃ x, (x, y) ∈ ds := by
  obtain ⟨⟨x, _⟩, hm, rfl⟩ := List.mem_map.mp h
  exact ⟨x, hm⟩

/-- The last of the columns or rows from `lo` to `hi`, in terms of their number. -/
theorem last_eq {lo hi : Nat} (h : lo ≤ hi) : lo + (hi - lo + 1) - 1 = hi := by omega

theorem boundingRect_minimal {ds : List (Nat × Nat)} {r : Rect} (h : boundingRect ds = some r) :
    r.Minimal fun x y => (x, y) ∈ ds := by
  cases ds with
  | nil => cases h
  | cons d ds =>
    cases h
    obtain ⟨hx0, hx0le⟩ := leastOf_spec d.1 (ds.map Prod.fst)
    obtain ⟨hx1, hx1ge⟩ := greatestOf_spec d.1 (ds.map Prod.fst)
    obtain ⟨hy0, hy0le⟩ := leastOf_spec d.2 (ds.map Prod.snd)
    obtain ⟨hy1, hy1ge⟩ := greatestOf_spec d.2 (ds.map Prod.snd)
    rw [← List.map_cons] at hx0 hx0le hx1 hx1ge hy0 hy0le hy1 hy1ge
    have hx := hx0le _ hx1
    have hy := hy0le _ hy1
    refine ⟨fun x y hm => ?_, exists_mem_of_mem_fst hx0, ?_, exists_mem_of_mem_snd hy0, ?_⟩
    · have hxm : x ∈ (d :: ds).map Prod.fst := List.mem_map_of_mem hm
      have hym : y ∈ (d :: ds).map Prod.snd := List.mem_map_of_mem hm
      have := hx0le x hxm
      have := hx1ge x hxm
      have := hy0le y hym
      have := hy1ge y hym
      dsimp only
      omega
    · rw [last_eq hx]
      exact exists_mem_of_mem_fst hx1
    · rw [last_eq hy]
      exact exists_mem_of_mem_snd hy1

theorem boundingRect_eq_none {ds : List (Nat × Nat)} : boundingRect ds = none ↔ ds = [] := by
  cases ds <;> simp [boundingRect]

/-- Two frames differ at a pixel of the `w` by `h` canvas. -/
def Differ (a b : List Nat) (w h x y : Nat) : Prop := x < w ∧ y < h ∧ pixelAt a w x y ≠ pixelAt b w x y

theorem bbox_eq_none {a b : List Nat} {w h : Nat} : bbox a b w h = none ↔ ∀ x y, ¬ Differ a b w h x y := by
  rw [bbox, boundingRect_eq_none, List.eq_nil_iff_forall_not_mem, Prod.forall]
  simp only [mem_diffPixels, Differ]

theorem bbox_minimal {a b : List Nat} {w h : Nat} {r : Rect} (hr : bbox a b w h = some r) :
    r.Minimal (Differ a b w h) := by
  have hm := boundingRect_minimal hr
  simp only [mem_diffPixels] at hm
  exact hm

/-- A difference rectangle lies on the canvas. -/
theorem bbox_within {a b : List Nat} {w h : Nat} {r : Rect} (hr : bbox a b w h = some r) :
    1 ≤ r.w ∧ 1 ≤ r.h ∧ r.x + r.w ≤ w ∧ r.y + r.h ≤ h := by
  obtain ⟨hw, hh⟩ := boundingRect_pos hr
  obtain ⟨-, -, ⟨y, hx, -⟩, -, ⟨x, -, hy, -⟩⟩ := bbox_minimal hr
  omega

theorem bbox_self (a : List Nat) (w h : Nat) : bbox a a w h = none := by rw [bbox, diffPixels_self]; rfl

theorem bbox_comm (a b : List Nat) (w h : Nat) : bbox a b w h = bbox b a w h := by rw [bbox, diffPixels_comm, bbox]

/-- The two 16-bit numbers of a rectangle register do not overlap (40_container.md R180). -/
theorem toNat_packHalves {hi lo : Nat} (hhi : hi < 2 ^ 16) (hlo : lo < 2 ^ 16) :
    (packHalves hi lo).toNat = hi * 2 ^ 16 + lo := by
  rw [packHalves, BitVec.toNat_or, BitVec.toNat_shiftLeft, BitVec.toNat_ofNat, BitVec.toNat_ofNat,
    Nat.mod_eq_of_lt (show hi < 2 ^ 32 by omega), Nat.mod_eq_of_lt (show lo < 2 ^ 32 by omega),
    Nat.mod_eq_of_lt (show hi <<< 16 < 2 ^ 32 by rw [Nat.shiftLeft_eq]; omega),
    ← Nat.shiftLeft_add_eq_or_of_lt hlo, Nat.shiftLeft_eq]

theorem packHalves_low {hi lo : Nat} (hhi : hi < 2 ^ 16) (hlo : lo < 2 ^ 16) :
    ((packHalves hi lo).extractLsb' 0 16).toNat = lo := by
  rw [BitVec.extractLsb'_toNat, toNat_packHalves hhi hlo, Nat.shiftRight_zero]
  omega

theorem packHalves_high {hi lo : Nat} (hhi : hi < 2 ^ 16) (hlo : lo < 2 ^ 16) :
    ((packHalves hi lo).extractLsb' 16 16).toNat = hi := by
  rw [BitVec.extractLsb'_toNat, toNat_packHalves hhi hlo, Nat.shiftRight_eq_div_pow]
  omega

theorem allowed_diffRect {p : Phase} : allowed .diffRect p = true ↔ p = .accumulating ∨ p = .finalized := by
  cases p <;> decide

theorem exec_diffRect {s : State} (hp : s.phase = .accumulating ∨ s.phase = .finalized) :
    exec .diffRect s = .next (diffRectBody s) := exec_of_allowed (allowed_diffRect.mpr hp)

theorem diffRectBody_of_lt {s : State} (h0 : s.arg0Nat < s.nframes) (h1 : s.arg1Nat < s.nframes) :
    diffRectBody s = reportRect s
      (bbox (s.frame s.arg0Nat) (s.frame s.arg1Nat) s.session.width.toNat s.session.height.toNat) :=
  if_neg (by omega)

theorem diffRectBody_of_le {s : State} (h : s.nframes ≤ s.arg0Nat ∨ s.nframes ≤ s.arg1Nat) :
    diffRectBody s = raiseFault .frameIndex s := if_pos h

/-- The report of a rectangle changes only the rectangle registers and the EMPTY flag. -/
theorem reportRect_frame (s : State) (o : Option Rect) :
    reportRect s o = { s with
      rectEmpty := (reportRect s o).rectEmpty, rectXY := (reportRect s o).rectXY,
      rectWH := (reportRect s o).rectWH } := by
  cases o <;> rfl

/-- Settles O49. -/
theorem diffRectReportsTheMinimalRectangle : Obligations.DiffRectReportsTheMinimalRectangle := by
  unfold Obligations.DiffRectReportsTheMinimalRectangle
  intro s hp h0 h1 width differ
  refine ⟨_, exec_diffRect hp, ?_⟩
  rw [diffRectBody_of_lt h0 h1]
  refine ⟨reportRect_frame s _, fun hsame => ?_, fun ⟨x, y, hxy⟩ => ?_⟩
  · have hnone : bbox (s.frame s.arg0Nat) (s.frame s.arg1Nat) s.session.width.toNat s.session.height.toNat = none :=
      bbox_eq_none.mpr hsame
    rw [hnone]
    exact ⟨rfl, rfl, rfl⟩
  · cases hr : bbox (s.frame s.arg0Nat) (s.frame s.arg1Nat) s.session.width.toNat s.session.height.toNat with
    | none => exact absurd hxy (bbox_eq_none.mp hr x y)
    | some r =>
      obtain ⟨hw, hh, hxw, hyh⟩ := bbox_within hr
      obtain ⟨hholds, hleft, hright, htop, hbottom⟩ := bbox_minimal hr
      have hwidth := s.session.width.isLt
      have hheight := s.session.height.isLt
      have hr16 : r.x < 2 ^ 16 ∧ r.y < 2 ^ 16 ∧ r.w < 2 ^ 16 ∧ r.h < 2 ^ 16 := by omega
      obtain ⟨hx, hy, hw16, hh16⟩ := hr16
      rw [reportRect, setRect_rectXY, setRect_rectWH, packHalves_low hy hx, packHalves_high hy hx,
        packHalves_low hh16 hw16, packHalves_high hh16 hw16]
      exact ⟨rfl, hw, hh, hholds, hleft, hright, htop, hbottom⟩

/-- The same state with the two frame indices exchanged. -/
def State.swapArgs (s : State) : State := { s with arg0 := s.arg1, arg1 := s.arg0 }

theorem reportRect_swapArgs (s : State) (o : Option Rect) : reportRect s.swapArgs o = (reportRect s o).swapArgs := by
  cases o <;> rfl

theorem diffRectBody_swapArgs (s : State) : diffRectBody s.swapArgs = (diffRectBody s).swapArgs := by
  rcases diffRectBody_cases s with ⟨h, he⟩ | ⟨h0, h1, he⟩
  · rw [he, diffRectBody_of_le (s := s.swapArgs) h.symm]
    rfl
  · rw [he, diffRectBody_of_lt (s := s.swapArgs) h1 h0, bbox_comm (s.frame s.arg0Nat)]
    exact reportRect_swapArgs s _

/-- Settles O50. -/
theorem diffRectIndexFaultAndSymmetry : Obligations.DiffRectIndexFaultAndSymmetry := by
  unfold Obligations.DiffRectIndexFaultAndSymmetry
  intro s hp
  rw [exec_diffRect hp]
  refine ⟨fun h => congrArg _ (diffRectBody_of_le h), fun heq h0 => ?_, fun t ht => ?_⟩
  · have hsame : s.arg1Nat = s.arg0Nat := congrArg BitVec.toNat heq.symm
    rw [diffRectBody_of_lt h0 (by rwa [hsame]), hsame, bbox_self]
    rfl
  · cases ht
    have hargs := operands_diffRectBody s
    have harg0 : (diffRectBody s).arg0 = s.arg0 := congrArg Operands.arg0 hargs
    have harg1 : (diffRectBody s).arg1 = s.arg1 := congrArg Operands.arg1 hargs
    calc exec .diffRect s.swapArgs
      _ = .next (diffRectBody s.swapArgs) := exec_diffRect (s := s.swapArgs) hp
      _ = .next (diffRectBody s).swapArgs := congrArg _ (diffRectBody_swapArgs s)
      _ = .next { diffRectBody s with arg0 := s.arg1, arg1 := s.arg0 } := by rw [State.swapArgs, harg0, harg1]

/-! ## The rectangle extractor (40_container.md R162, R167) -/

/-- A table read row by row: entry `k` stands in row `k / n`, column `k % n`. -/
theorem flatMap_range_map_range {α : Type} (m n : Nat) (g : Nat → Nat → α) :
    ((List.range m).flatMap fun i => (List.range n).map (g i)) =
      (List.range (m * n)).map fun k => g (k / n) (k % n) := by
  induction m with
  | zero => simp
  | succ m ih =>
    rw [List.range_succ, List.flatMap_append, ih, List.flatMap_singleton, Nat.succ_mul, List.range_add, List.map_append,
      List.map_map]
    refine congrArg _ (List.map_congr_left fun j hj => ?_)
    have hj : j < n := List.mem_range.mp hj
    have hdiv : (m * n + j) / n = m := by
      rw [Nat.mul_comm, Nat.mul_add_div (by omega), Nat.div_eq_of_lt hj, Nat.add_zero]
    have hmod : (m * n + j) % n = j := by rw [Nat.mul_comm, Nat.mul_add_mod, Nat.mod_eq_of_lt hj]
    simp only [Function.comp_apply, hdiv, hmod]

theorem extract_eq_map (f : List Nat) (r : Rect) (w sc : Nat) :
    extract f r w sc = (List.range (r.h * sc * (r.w * sc))).map fun k =>
      pixelAt f w ((r.x * sc + k % (r.w * sc)) / sc) ((r.y * sc + k / (r.w * sc)) / sc) :=
  flatMap_range_map_range ..

theorem length_extract (f : List Nat) (r : Rect) (w sc : Nat) : (extract f r w sc).length = r.w * r.h * sc ^ 2 := by
  rw [extract_eq_map, List.length_map, List.length_range]
  ring

/-- Settles O51. -/
theorem extractReadsTheScaledRectangle : Obligations.ExtractReadsTheScaledRectangle := by
  unfold Obligations.ExtractReadsTheScaledRectangle
  intro f x y w h width sc _ _
  refine ⟨length_extract f ⟨x, y, w, h⟩ width sc, fun k hk => ?_⟩
  have hk' : k < h * sc * (w * sc) := by
    calc k < w * h * sc ^ 2 := hk
      _ = h * sc * (w * sc) := by ring
  rw [extract_eq_map, List.getD_eq_getElem _ _ (by simpa using hk'), List.getElem_map, List.getElem_range]
  rfl

end Sys2Proof.Machine

/-! ## FINISH: the frames it emits and what it appends (40_container.md R160 to R173) -/

namespace Sys2Proof.Machine

section Emitted

variable {s : State}

/-- Frame `f` is the last of its run of equal consecutive frames (40_container.md R163). -/
def State.endsRun (s : State) (f : Nat) : Bool := f + 1 == s.nframes || s.frame f != s.frame (f + 1)

theorem emitted_eq_filter (s : State) : s.emitted = (List.range s.nframes).filter s.endsRun := rfl

theorem endsRun_eq_true {f : Nat} (hf : f < s.nframes) :
    s.endsRun f = true ↔ (f + 1 < s.nframes → s.frame f ≠ s.frame (f + 1)) := by
  simp only [State.endsRun, Bool.or_eq_true, beq_iff_eq, bne_iff_ne]
  constructor
  · rintro (hlast | hne) hlt
    · omega
    · exact hne
  · intro h
    by_cases hlast : f + 1 = s.nframes
    · exact .inl hlast
    · exact .inr (h (by omega))

theorem endsRun_eq_false {f : Nat} (hf : f < s.nframes) :
    s.endsRun f = false ↔ f + 1 < s.nframes ∧ s.frame f = s.frame (f + 1) := by
  rw [← Bool.not_eq_true, endsRun_eq_true hf]
  push Not
  rfl

theorem mem_emitted {f : Nat} :
    f ∈ s.emitted ↔ f < s.nframes ∧ (f + 1 < s.nframes → s.frame f ≠ s.frame (f + 1)) := by
  rw [emitted_eq_filter, List.mem_filter, List.mem_range]
  exact and_congr_right endsRun_eq_true

/-- A frame of the store is one of its frames. -/
theorem frame_mem {f : Nat} (hf : f < s.nframes) : s.frame f ∈ s.frames := by
  rw [State.frame, List.getD_eq_getElem _ _ hf]
  exact List.getElem_mem hf

end Emitted

/-! ### The bytes of one emission (40_container.md R168 to R170) -/

@[simp] theorem length_gceBytes (delay : Nat) : (gceBytes delay).length = 8 := rfl

@[simp] theorem length_imgDescBytes (x y w h : Nat) : (imgDescBytes x y w h).length = 10 := rfl

section Triples

variable {s : State} {prev : Option Nat} {f : Nat} {r : Rect}

/-- The payload of frame `f` in the rectangle `r`, before compression (40_container.md R167). -/
def State.payload (s : State) (f : Nat) (r : Rect) : List Nat :=
  extract (s.frame f) r s.session.width.toNat s.session.scale.toNat

/-- The two blocks in front of the payload: the Graphic Control Extension and the Image Descriptor. -/
def State.blocks (s : State) (prev : Option Nat) (f : Nat) (r : Rect) : List Byte :=
  gceBytes (runLength prev f * s.session.quantum.toNat)
    ++ imgDescBytes (r.x * s.session.scale.toNat) (r.y * s.session.scale.toNat) (r.w * s.session.scale.toNat)
      (r.h * s.session.scale.toNat)

@[simp] theorem length_blocks : (s.blocks prev f r).length = 18 := rfl

theorem triple_of_stream {bytes : List Byte}
    (h : lzwStream s.dev s.session.psize (s.payload f r) = .ok bytes) :
    s.triple prev f r = .ok (s.blocks prev f r ++ bytes) := by
  rw [State.payload] at h
  simp only [State.triple, h, State.blocks]

theorem triple_eq_ok {a : List Byte} (h : s.triple prev f r = .ok a) :
    ∃ bytes, lzwStream s.dev s.session.psize (s.payload f r) = .ok bytes ∧ a = s.blocks prev f r ++ bytes := by
  cases hs : lzwStream s.dev s.session.psize (s.payload f r) with
  | error e =>
    rw [State.payload] at hs
    simp [State.triple, hs] at h
  | ok bytes =>
    rw [triple_of_stream hs] at h
    exact ⟨bytes, rfl, (Except.ok.inj h).symm⟩

theorem triples_cons_of_none (h : finishRect s prev f = none) (fs : List Nat) :
    s.triples prev (f :: fs) = s.triples prev fs := by
  rw [State.triples, h]

theorem triples_cons_of_some (h : finishRect s prev f = some r) {fs : List Nat} {a rest : List Byte}
    (ha : s.triple prev f r = .ok a) (hrest : s.triples (some f) fs = .ok rest) :
    s.triples prev (f :: fs) = .ok (a ++ rest) := by
  simp only [State.triples, h, ha, hrest]

theorem triples_cons_eq_ok (h : finishRect s prev f = some r) {fs : List Nat} {body : List Byte}
    (hb : s.triples prev (f :: fs) = .ok body) :
    ∃ a rest, s.triple prev f r = .ok a ∧ s.triples (some f) fs = .ok rest ∧ body = a ++ rest := by
  rw [State.triples, h] at hb
  dsimp only at hb
  cases ha : s.triple prev f r with
  | error e => simp [ha] at hb
  | ok a =>
    cases hrest : s.triples (some f) fs with
    | error e => simp [ha, hrest] at hb
    | ok rest => exact ⟨a, rest, rfl, rfl, by simpa [ha, hrest] using hb.symm⟩

end Triples

/-! ### One iteration of the loop (40_container.md R163, R166, R171) -/

section FinishFrame

variable {s : State} {f : Nat} {k : FinishPass} {b : OutBuf}

theorem finishFrame_of_equal_successor (hf : f < s.nframes) (h : s.endsRun f = false) :
    finishFrame s f k b = .ok ({ k with acc := k.acc + s.session.quantum.toNat }, b) :=
  if_pos ((endsRun_eq_false hf).mp h)

theorem not_equal_successor (hf : f < s.nframes) (h : s.endsRun f = true) :
    ¬ (f + 1 < s.nframes ∧ s.frame f = s.frame (f + 1)) := by
  rw [← endsRun_eq_false hf, h]
  exact Bool.noConfusion

theorem finishFrame_of_no_difference (hf : f < s.nframes) (h : s.endsRun f = true)
    (hr : finishRect s k.last f = none) :
    finishFrame s f k b = .ok ({ k with acc := k.acc + s.session.quantum.toNat }, b) := by
  simp only [finishFrame, if_neg (not_equal_successor hf h), hr]

theorem finishFrame_of_emission (hf : f < s.nframes) (h : s.endsRun f = true) {r : Rect}
    (hr : finishRect s k.last f = some r) {b' : OutBuf} (he : emitFrame s k.acc f r b = .ok b') :
    finishFrame s f k b = .ok ({ last := some f, acc := s.session.quantum.toNat }, b') := by
  simp only [finishFrame, if_neg (not_equal_successor hf h), hr, he]

theorem finishLoop_cons {k' : FinishPass} {b' : OutBuf} (h : finishFrame s f k b = .ok (k', b')) (fs : List Nat) :
    finishLoop s (f :: fs) k b = finishLoop s fs k' b' := by
  rw [finishLoop, h]

end FinishFrame

/-! ### The whole loop: the accumulator counts the frames since the last emission -/

/-- The working state in which FINISH comes to frame `f` when `prev` was emitted last: one quantum for each frame that
an emission of `f` would stand for. -/
def State.passAt (s : State) (prev : Option Nat) (f : Nat) : FinishPass where
  last := prev
  acc := runLength prev f * s.session.quantum.toNat

/-- Frame `f` comes after the one that was emitted last. -/
def Follows (prev : Option Nat) (f : Nat) : Prop := ∀ e, prev = some e → e < f

theorem Follows.succ {prev : Option Nat} {f : Nat} (h : Follows prev f) : Follows prev (f + 1) :=
  fun e he => Nat.lt_succ_of_lt (h e he)

theorem follows_emitted (f : Nat) : Follows (some f) (f + 1) := fun e he => by cases he; exact Nat.lt_succ_self f

theorem runLength_succ {prev : Option Nat} {f : Nat} (h : Follows prev f) :
    runLength prev (f + 1) = runLength prev f + 1 := by
  cases prev with
  | none => rfl
  | some e =>
    have he : e < f := h e rfl
    simp only [runLength]
    omega

/-- Coalescing a frame adds one quantum (40_container.md R163, R166). -/
theorem passAt_succ (s : State) {prev : Option Nat} {f : Nat} (h : Follows prev f) :
    { s.passAt prev f with acc := (s.passAt prev f).acc + s.session.quantum.toNat } = s.passAt prev (f + 1) := by
  rw [State.passAt, State.passAt, runLength_succ h, Nat.succ_mul]

/-- An emission starts a new accumulation (40_container.md R171). -/
theorem passAt_emitted (s : State) (f : Nat) :
    { last := some f, acc := s.session.quantum.toNat } = s.passAt (some f) (f + 1) := by
  simp [State.passAt, runLength]

theorem passAt_zero (s : State) : s.passAt none 0 = { last := none, acc := s.session.quantum.toNat } := by
  simp [State.passAt, runLength]

/-- The two branches of R160 are one: with no frame the loop appends nothing. -/
theorem finishOut_of_loop {s : State} {b : OutBuf}
    (h : finishLoop s (List.range s.nframes) (s.passAt none 0) s.out.redraw = .ok b) :
    finishOut s = outAppendAll s.dev.outBytes b [trailerByte] := by
  rw [finishOut]
  split
  · rename_i h0
    rw [h0] at h
    cases h
    rfl
  · rw [passAt_zero] at h
    rw [h]

section FinishAppends

variable {s : State} (hcap : s.dev.outBytes < 2 ^ 32)

include hcap

theorem emitFrame_ok {prev : Option Nat} {f : Nat} {r : Rect} {a xs : List Byte} {b : OutBuf} (hb : b.Holds xs)
    (ha : s.triple prev f r = .ok a) (hroom : xs.length + a.length ≤ s.dev.outBytes) :
    ∃ b', emitFrame s (s.passAt prev f).acc f r b = .ok b' ∧ b'.Holds (xs ++ a) := by
  obtain ⟨bytes, hs, rfl⟩ := triple_eq_ok ha
  simp only [State.blocks, List.length_append, length_gceBytes, length_imgDescBytes] at hroom
  obtain ⟨b1, h1, hb1, -⟩ := outAppendAll_ok hcap (gceBytes (s.passAt prev f).acc) hb
    (by rw [length_gceBytes]; omega)
  obtain ⟨b2, h2, hb2, -⟩ := outAppendAll_ok hcap
    (imgDescBytes (r.x * s.session.scale.toNat) (r.y * s.session.scale.toNat) (r.w * s.session.scale.toNat)
      (r.h * s.session.scale.toNat)) hb1
    (by rw [List.length_append, length_gceBytes, length_imgDescBytes]; omega)
  obtain ⟨b3, h3, hb3, -⟩ := outAppendAll_ok hcap bytes hb2
    (by simp only [List.length_append, length_gceBytes, length_imgDescBytes]; omega)
  rw [State.payload] at hs
  exact ⟨b3, by simp only [emitFrame, h1, h2, hs, h3], by simpa [State.blocks, State.passAt] using hb3⟩

/-- From frame `f` on, the loop of R160 appends the triples of the frames that end a run. -/
theorem finishLoop_ok (d : Nat) : ∀ {f : Nat} {prev : Option Nat} {b : OutBuf} {xs body : List Byte},
    f + d = s.nframes → Follows prev f → b.Holds xs →
    s.triples prev ((List.range' f d).filter s.endsRun) = .ok body → xs.length + body.length ≤ s.dev.outBytes →
    ∃ b', finishLoop s (List.range' f d) (s.passAt prev f) b = .ok b' ∧ b'.Holds (xs ++ body) := by
  induction d with
  | zero =>
    intro f prev b xs body _ _ hb hbody _
    cases hbody
    exact ⟨b, rfl, by simpa using hb⟩
  | succ d ih =>
    intro f prev b xs body hn hprev hb hbody hroom
    have hf : f < s.nframes := by omega
    have hn' : f + 1 + d = s.nframes := by omega
    rw [List.range'_succ] at hbody ⊢
    cases hend : s.endsRun f with
    | false =>
      rw [List.filter_cons_of_neg (by simp [hend])] at hbody
      rw [finishLoop_cons (finishFrame_of_equal_successor hf hend), passAt_succ s hprev]
      exact ih hn' hprev.succ hb hbody hroom
    | true =>
      rw [List.filter_cons_of_pos hend] at hbody
      cases hr : finishRect s prev f with
      | none =>
        rw [triples_cons_of_none hr] at hbody
        rw [finishLoop_cons (finishFrame_of_no_difference hf hend hr), passAt_succ s hprev]
        exact ih hn' hprev.succ hb hbody hroom
      | some r =>
        obtain ⟨a, rest, ha, hrest, rfl⟩ := triples_cons_eq_ok hr hbody
        rw [List.length_append] at hroom
        obtain ⟨b1, h1, hb1⟩ := emitFrame_ok hcap hb ha (by omega)
        rw [finishLoop_cons (finishFrame_of_emission hf hend hr h1), passAt_emitted, ← List.append_assoc]
        exact ih hn' (follows_emitted f) hb1 hrest (by rw [List.length_append]; omega)

theorem finishOut_ok {xs body : List Byte} (hb : s.out.Holds xs) (hbody : s.triples none s.emitted = .ok body)
    (hroom : xs.length + body.length + 1 ≤ s.dev.outBytes) :
    ∃ b, finishOut s = .ok b ∧ b.Holds (xs ++ body ++ [trailerByte]) := by
  rw [emitted_eq_filter, List.range_eq_range'] at hbody
  obtain ⟨b1, h1, hb1⟩ := finishLoop_ok hcap s.nframes (Nat.zero_add _) (fun e he => by cases he)
    (OutBuf.holds_redraw hb) hbody (by omega)
  rw [← List.range_eq_range'] at h1
  obtain ⟨b2, h2, hb2, -⟩ := outAppendAll_ok hcap [trailerByte] hb1
    (by rw [List.length_append, List.length_singleton]; omega)
  exact ⟨b2, (finishOut_of_loop h1).trans h2, hb2⟩

end FinishAppends

theorem exec_finish {s : State} (hp : s.phase = .accumulating) : exec .finish s = .next (finishBody s) :=
  exec_of_allowed (allowed_finish.mpr hp)

theorem finishBody_of_ok {s : State} {b : OutBuf} (h : finishOut s = .ok b) :
    finishBody s = (s.setOut b).setPhase .finalized := by
  rw [finishBody, h]

theorem State.Inv.holds_outBytes {s : State} (h : s.Inv) (hp : s.phase ≠ .fault) :
    s.out.Holds s.outBytes := by
  have hrun := h.not_isRunning hp
  obtain ⟨-, -, hout, -⟩ := h
  exact (hout.holds hrun).1

/-- FINISH, when the triples of the emitted frames exist and fit (40_container.md R160, R173). -/
theorem exec_finish_of_triples {s : State} (h : s.Inv) (hp : s.phase = .accumulating) {body : List Byte}
    (hbody : s.triples none s.emitted = .ok body) (hroom : s.outlen.toNat + body.length + 1 ≤ s.dev.outBytes) :
    ∃ t, exec .finish s = .next t ∧ t = { s with phase := .finalized, out := t.out } ∧
      t.outlen.toNat = s.outlen.toNat + body.length + 1 ∧ t.outBytes = s.outBytes ++ body ++ [0x3B] := by
  have hb := h.holds_outBytes (by simp [hp])
  have hlen : s.outBytes.length = s.outlen.toNat := s.length_outBytes
  obtain ⟨b, ho, hb'⟩ := finishOut_ok h.outBytes_lt hb hbody (by omega)
  have hlen' : (s.outBytes ++ body ++ [trailerByte]).length = s.outlen.toNat + body.length + 1 := by
    simp only [List.length_append, hlen, List.length_singleton]
  have hfits : (s.outBytes ++ body ++ [trailerByte]).length ≤ s.dev.outBytes := by rw [hlen']; exact hroom
  refine ⟨_, exec_finish hp, ?_⟩
  rw [finishBody_of_ok ho]
  exact ⟨rfl, hb'.2.trans hlen', outBytes_of_holds (s := (s.setOut b).setPhase .finalized) hb' hfits⟩

/-- Settles O52: the loop's accumulator against the runs of equal frames. -/
theorem finishAppendsOneTriplePerRun : Obligations.FinishAppendsOneTriplePerRun := by
  unfold Obligations.FinishAppendsOneTriplePerRun
  intro s body h hp hbody hroom
  exact exec_finish_of_triples h hp hbody hroom

/-! ### Consecutive emissions differ (40_container.md R166) -/

/-- Two frames that fill the canvas and differ, differ at a pixel of it. -/
theorem exists_differ {a b : List Nat} {w h : Nat} (ha : a.length = w * h) (hb : b.length = w * h) (hne : a ≠ b) :
    ∃ x y, Differ a b w h x y := by
  by_contra! hsame
  refine hne (List.ext_getElem (by rw [ha, hb]) fun k hka hkb => ?_)
  have hk : k < w * h := ha ▸ hka
  have hw : 0 < w := Nat.pos_of_ne_zero (by rintro rfl; simp at hk)
  have hpix : pixelAt a w (k % w) (k / w) = pixelAt b w (k % w) (k / w) := by
    by_contra hd
    exact hsame (k % w) (k / w) ⟨Nat.mod_lt k hw, Nat.div_lt_of_lt_mul hk, hd⟩
  rwa [pixelAt, pixelAt, Nat.div_add_mod', List.getD_eq_getElem _ _ hka, List.getD_eq_getElem _ _ hkb] at hpix

/-- No frame between two emissions is emitted, so all of them equal the next emitted one. -/
theorem frame_eq_of_run {s : State} {e f : Nat} (hf : f < s.nframes) (hrun : ∀ g, e < g → g < f → g ∉ s.emitted) :
    ∀ d g, g + d = f → e < g → s.frame g = s.frame f := by
  intro d
  induction d with
  | zero => rintro g rfl _; rfl
  | succ d ih =>
    intro g hg he
    have hequal : s.frame g = s.frame (g + 1) := by
      by_contra hne
      exact hrun g he (by omega) (mem_emitted.mpr ⟨by omega, fun _ => hne⟩)
    rw [hequal, ih (g + 1) (by omega) (by omega)]

/-- Every frame of a session has W*H indices (10_state.md R55). -/
theorem State.Inv.length_frame {s : State} (h : s.Inv) {f : Nat} (hf : f < s.nframes) :
    (s.frame f).length = s.session.width.toNat * s.session.height.toNat := by
  obtain ⟨-, -, -, -, -, ⟨-, -, hframes⟩, -⟩ := h
  exact (hframes _ (frame_mem hf)).1

/-- Settles O53. -/
theorem emittedFramesDifferFromTheLastEmitted : Obligations.EmittedFramesDifferFromTheLastEmitted := by
  unfold Obligations.EmittedFramesDifferFromTheLastEmitted
  intro s e f h _ he hf hef hrun hnone
  obtain ⟨hen, hends⟩ := mem_emitted.mp he
  obtain ⟨hfn, -⟩ := mem_emitted.mp hf
  have hne : s.frame e ≠ s.frame f := by
    rw [← frame_eq_of_run hfn hrun (f - (e + 1)) (e + 1) (by omega) (Nat.lt_succ_self e)]
    exact hends (by omega)
  obtain ⟨x, y, hxy⟩ := exists_differ (h.length_frame hen) (h.length_frame hfn) hne
  exact bbox_eq_none.mp hnone x y hxy

/-! ### Equal frames (40_container.md R174, R175) -/

theorem emitted_of_replicate {s : State} {f : List Nat} {n : Nat} (h : s.frames = List.replicate (n + 1) f) :
    s.emitted = [n] := by
  have hn : s.nframes = n + 1 := by rw [State.nframes, h, List.length_replicate]
  have hframe : ∀ g, g ≤ n → s.frame g = f := fun g hg => by
    rw [State.frame, h, List.getD_replicate _ (by omega)]
  have hskip : (List.range n).filter s.endsRun = [] := by
    refine List.filter_eq_nil_iff.mpr fun g hg => ?_
    have hg : g < n := List.mem_range.mp hg
    rw [Bool.not_eq_true, endsRun_eq_false (by omega), hframe g (by omega), hframe (g + 1) (by omega)]
    exact ⟨by omega, rfl⟩
  have hlast : s.endsRun n = true := (endsRun_eq_true (by omega)).mpr fun hlt => absurd hlt (by omega)
  rw [emitted_eq_filter, hn, List.range_succ, List.filter_append, hskip, List.filter_cons_of_pos hlast]
  rfl

/-- Settles O54. -/
theorem equalFramesAreEmittedOnce : Obligations.EqualFramesAreEmittedOnce := by
  unfold Obligations.EqualFramesAreEmittedOnce
  intro s f n bytes h hp hframes width height delay hstream hroom
  have hframe : s.frame n = f := by rw [State.frame, hframes, List.getD_replicate _ (Nat.lt_succ_self n)]
  have hpayload : s.payload n ⟨0, 0, s.session.width.toNat, s.session.height.toNat⟩ =
      extract f ⟨0, 0, s.session.width.toNat, s.session.height.toNat⟩ s.session.width.toNat
        s.session.scale.toNat := by rw [State.payload, hframe]
  have hbody := triples_cons_of_some (prev := none) (f := n) rfl (triple_of_stream (hpayload ▸ hstream))
    (show s.triples (some n) [] = .ok [] from rfl)
  rw [← emitted_of_replicate hframes] at hbody
  have hroom : s.outlen.toNat + bytes.length + 19 ≤ s.dev.outBytes := hroom
  obtain ⟨t, ht, hframe', -, hout⟩ := exec_finish_of_triples h hp hbody
    (by simp only [List.length_append, length_blocks, List.length_nil]; omega)
  refine ⟨t, ht, hframe', hout.trans ?_⟩
  simp [State.blocks, gceBytes, imgDescBytes, runLength, width, height, delay]

end Sys2Proof.Machine

/-! ## The compressor on palette symbols, as FINISH needs it (41_lzw.md R217, R226; 70_reset_and_hazards.md R336) -/

namespace Sys2Proof.Machine

/-! ### What a step of the compressor can do -/

theorem dictFind_isSome_iff {d : Dict} {q : Key} : (dictFind d q).isSome ↔ q ∈ d.map Prod.fst := by
  induction d with
  | nil => simp [dictFind]
  | cons e d ih =>
    obtain ⟨k, c⟩ := e
    rw [dictFind, List.map_cons, List.mem_cons]
    split
    · rename_i hk; simp [hk]
    · rename_i hk; simp [ih, Ne.symm hk]

/-- A key has a code exactly when it is in the dictionary (41_lzw.md R206). -/
theorem codeOf_ok_of_mem {d : Dict} {k : Key} (h : k ∈ d.map Prod.fst) : ∃ c, codeOf d k = .ok c := by
  obtain ⟨c, hc⟩ := Option.isSome_iff_exists.mp (dictFind_isSome_iff.mpr h)
  exact ⟨c, by rw [codeOf, hc]⟩

section LzwStep

variable {m : DictKey} {p : PaletteSize} {z : Lzw} {x : Nat}

/-- After a miss on `x` that fills the table: code `c` and a clear code are emitted, and the table starts anew
(41_lzw.md R211). -/
def Lzw.restarted (m : DictKey) (p : PaletteSize) (z : Lzw) (x c : Nat) : Lzw :=
  { Lzw.start m p x with codes := z.codes ++ [⟨c, z.w⟩, ⟨clearCode p, grownWidth z.w (z.size + 1)⟩] }

/-- After a miss on `x` with room in the table: code `c` is emitted and `ext` has a code (41_lzw.md R208 to R210). -/
def Lzw.registered (m : DictKey) (z : Lzw) (x : Nat) (ext : Key) (c : Nat) : Lzw where
  w := grownWidth z.w (z.size + 1)
  size := z.size + 1
  dict := (ext, z.size) :: z.dict
  cur := key1 m x
  codes := z.codes ++ [⟨c, z.w⟩]

theorem Lzw.miss_of_codeOf {ext : Key} {c : Nat} (h : codeOf ((ext, z.size) :: z.dict) z.cur = .ok c) :
    (z.size + 1 = maxTable ∧ z.miss m p x ext = .ok (z.restarted m p x c)) ∨
    (z.size + 1 ≠ maxTable ∧ z.miss m p x ext = .ok (z.registered m x ext c)) := by
  by_cases hfull : z.size + 1 = maxTable
  · exact .inl ⟨hfull, by simp only [Lzw.miss, h, if_pos hfull, Lzw.start, Lzw.restarted]⟩
  · exact .inr ⟨hfull, by simp only [Lzw.miss, h, if_neg hfull, Lzw.registered]⟩

/-- What a miss can do. -/
theorem Lzw.miss_cases {ext : Key} {z' : Lzw} (h : z.miss m p x ext = .ok z') :
    ∃ c, (z.size + 1 = maxTable ∧ z' = z.restarted m p x c) ∨
      (z.size + 1 ≠ maxTable ∧ z' = z.registered m x ext c) := by
  cases hc : codeOf ((ext, z.size) :: z.dict) z.cur with
  | error e => simp [Lzw.miss, hc] at h
  | ok c =>
    refine ⟨c, ?_⟩
    rcases Lzw.miss_of_codeOf (m := m) (p := p) (x := x) hc with ⟨hfull, he⟩ | ⟨hfull, he⟩ <;> rw [he] at h
    · exact .inl ⟨hfull, (Except.ok.inj h).symm⟩
    · exact .inr ⟨hfull, (Except.ok.inj h).symm⟩

/-- A symbol extends the match, or misses (41_lzw.md R207). -/
theorem Lzw.feed_eq (m : DictKey) (p : PaletteSize) (z : Lzw) (x : Nat) :
    (keyext z.cur x ∈ z.dict.map Prod.fst ∧ z.feed m p x = .ok { z with cur := keyext z.cur x }) ∨
    (keyext z.cur x ∉ z.dict.map Prod.fst ∧ z.feed m p x = z.miss m p x (keyext z.cur x)) := by
  rw [← dictFind_isSome_iff, Lzw.feed]
  cases dictFind z.dict (keyext z.cur x) with
  | none => exact .inr ⟨by simp, rfl⟩
  | some c => exact .inl ⟨rfl, rfl⟩

theorem Lzw.feedAll_cons {z' : Lzw} (h : z.feed m p x = .ok z') (xs : List Nat) :
    z.feedAll m p (x :: xs) = z'.feedAll m p xs := by
  rw [Lzw.feedAll, h]

theorem Lzw.feedAll_cons_eq_ok {xs : List Nat} {z'' : Lzw} (h : z.feedAll m p (x :: xs) = .ok z'') :
    ∃ z', z.feed m p x = .ok z' ∧ z'.feedAll m p xs = .ok z'' := by
  cases hx : z.feed m p x with
  | error e => simp [Lzw.feedAll, hx] at h
  | ok z' => exact ⟨z', rfl, Lzw.feedAll_cons hx xs ▸ h⟩

end LzwStep

/-! ### Palette symbols never fault -/

/-- The current match and every palette symbol have a code. -/
structure Lzw.Ready (m : DictKey) (p : PaletteSize) (z : Lzw) : Prop where
  cur_mem : z.cur ∈ z.dict.map Prod.fst
  key1_mem : ∀ x, x < p.toNat → key1 m x ∈ z.dict.map Prod.fst

section PaletteSymbols

variable {m : DictKey} {p : PaletteSize}

theorem key1_mem_seedDict {x : Nat} (hx : x < p.toNat) : key1 m x ∈ (seedDict m p).map Prod.fst := by
  rw [seedDict, List.map_map]
  exact List.mem_map.mpr ⟨x, List.mem_range.mpr hx, rfl⟩

theorem Lzw.ready_start {x : Nat} (hx : x < p.toNat) : (Lzw.start m p x).Ready m p :=
  ⟨key1_mem_seedDict hx, fun _ => key1_mem_seedDict⟩

theorem Lzw.Ready.feed {z : Lzw} (h : z.Ready m p) {x : Nat} (hx : x < p.toNat) :
    ∃ z', z.feed m p x = .ok z' ∧ z'.Ready m p := by
  obtain ⟨hcur, hsym⟩ := h
  rcases Lzw.feed_eq m p z x with ⟨hm, he⟩ | ⟨-, he⟩ <;> rw [he]
  · exact ⟨_, rfl, hm, hsym⟩
  · obtain ⟨c, hc⟩ := codeOf_ok_of_mem (d := (keyext z.cur x, z.size) :: z.dict) (List.mem_cons_of_mem _ hcur)
    rcases Lzw.miss_of_codeOf (m := m) (p := p) (x := x) hc with ⟨-, he'⟩ | ⟨-, he'⟩
    · exact ⟨_, he', key1_mem_seedDict hx, fun _ => key1_mem_seedDict⟩
    · exact ⟨_, he', List.mem_cons_of_mem _ (hsym x hx), fun y hy => List.mem_cons_of_mem _ (hsym y hy)⟩

theorem Lzw.Ready.feedAll {xs : List Nat} (hxs : ∀ x ∈ xs, x < p.toNat) :
    ∀ {z : Lzw}, z.Ready m p → ∃ z', z.feedAll m p xs = .ok z' ∧ z'.Ready m p := by
  induction xs with
  | nil => intro z h; exact ⟨z, rfl, h⟩
  | cons x xs ih =>
    intro z h
    obtain ⟨hx, hxs⟩ := List.forall_mem_cons.mp hxs
    obtain ⟨z', hz', h'⟩ := h.feed hx
    rw [Lzw.feedAll_cons hz']
    exact ih hxs h'

/-- The codes of a run are those of its end of input (41_lzw.md R207, R213). -/
theorem lzwCodes_of_feedAll {d : Params} {s0 : Nat} {rest : List Nat} {z : Lzw}
    (h : (Lzw.start d.dictKey p s0).feedAll d.dictKey p rest = .ok z) :
    lzwCodes d p (s0 :: rest) = z.close d.finalGrowth p := by
  rw [lzwCodes, h]

theorem Lzw.close_of_codeOf {z : Lzw} {c : Nat} (h : codeOf z.dict z.cur = .ok c) (growth : Bool) :
    z.close growth p = .ok (z.codes ++ [⟨c, z.w⟩, ⟨eoiCode p, eoiWidth growth z⟩]) := by
  rw [Lzw.close, h]

/-- A run over palette symbols gives codes, under either kind of key (41_lzw.md R226). -/
theorem lzwCodes_ok_of_palette (d : Params) {sym : List Nat} (hne : sym ≠ []) (hsym : ∀ x ∈ sym, x < p.toNat) :
    ∃ codes, lzwCodes d p sym = .ok codes := by
  cases sym with
  | nil => exact absurd rfl hne
  | cons s0 rest =>
    obtain ⟨h0, hrest⟩ := List.forall_mem_cons.mp hsym
    obtain ⟨z, hz, hready⟩ := Lzw.Ready.feedAll hrest (Lzw.ready_start (m := d.dictKey) h0)
    obtain ⟨c, hc⟩ := codeOf_ok_of_mem hready.cur_mem
    exact ⟨_, (lzwCodes_of_feedAll hz).trans (Lzw.close_of_codeOf hc _)⟩

theorem lzwStream_of_codes {d : Params} {sym : List Nat} {codes : List Code} (h : lzwCodes d p sym = .ok codes) :
    lzwStream d p sym = .ok (BitVec.ofNat 8 (initialCodeSize p) :: subBlocks d.termAlways (pack codes)) := by
  rw [lzwStream, h]

/-- SYMBOL_RANGE needs a symbol outside the palette (41_lzw.md R217). -/
theorem foreign_symbol_of_symbolRange {d : Params} {sym : List Nat} (h : lzwStream d p sym = .error .symbolRange) :
    ∃ x ∈ sym, p.toNat ≤ x := by
  by_contra! hsym
  by_cases hne : sym = []
  · subst hne
    cases h
  · obtain ⟨codes, hc⟩ := lzwCodes_ok_of_palette d hne hsym
    rw [lzwStream_of_codes hc] at h
    cases h

end PaletteSymbols

/-! ### How long a stream can be (70_reset_and_hazards.md R336) -/

/-- The widths stay within 12 bits because the table is started anew before it is full (41_lzw.md R210, R211, R221). -/
structure Lzw.Narrow (z : Lzw) : Prop where
  width_le : z.w ≤ 12
  size_lt : z.size < 4096
  codes_le : ∀ c ∈ z.codes, c.width ≤ 12

theorem grownWidth_le {w size : Nat} (hw : w ≤ 12) (hs : size ≤ 4096) : grownWidth w size ≤ 12 := by
  rw [grownWidth]
  split
  · rename_i h
    have hne : w ≠ 12 := by
      rintro rfl
      omega
    omega
  · exact hw

theorem eoiWidth_le (growth : Bool) {z : Lzw} (h : z.Narrow) : eoiWidth growth z ≤ 12 := by
  obtain ⟨hw, hs, -⟩ := h
  rw [eoiWidth]
  split
  · rename_i hg
    have hpow : 2 ^ z.w ≤ z.size := by simpa using (Bool.and_eq_true_iff.mp hg).2
    have hne : z.w ≠ 12 := by
      intro h12
      rw [h12] at hpow
      omega
    omega
  · exact hw

section StreamLength

variable {m : DictKey} {p : PaletteSize} {z z' : Lzw}

theorem startWidth_le (p : PaletteSize) : startWidth p ≤ 12 := by cases p <;> decide

theorem seedSize_lt (p : PaletteSize) : seedSize p < 4096 := by cases p <;> decide

theorem Lzw.narrow_start (m : DictKey) (p : PaletteSize) (x : Nat) : (Lzw.start m p x).Narrow :=
  ⟨startWidth_le p, seedSize_lt p, by simpa [Lzw.start] using startWidth_le p⟩

/-- One symbol emits at most two codes. -/
theorem Lzw.Narrow.feed (h : z.Narrow) {x : Nat} (hf : z.feed m p x = .ok z') :
    z'.Narrow ∧ z'.codes.length ≤ z.codes.length + 2 := by
  obtain ⟨hw, hs, hcodes⟩ := h
  have hgrown : grownWidth z.w (z.size + 1) ≤ 12 := grownWidth_le hw hs
  rcases Lzw.feed_eq m p z x with ⟨-, he⟩ | ⟨-, he⟩ <;> rw [he] at hf
  · cases hf
    exact ⟨⟨hw, hs, hcodes⟩, Nat.le_add_right _ _⟩
  · obtain ⟨c, ⟨-, rfl⟩ | ⟨hfull, rfl⟩⟩ := Lzw.miss_cases hf
    · exact ⟨⟨startWidth_le p, seedSize_lt p, List.forall_mem_append.mpr ⟨hcodes, by simp [hw, hgrown]⟩⟩,
        by simp [Lzw.restarted]⟩
    · have hroom : z.size + 1 < 4096 := Nat.lt_of_le_of_ne hs hfull
      exact ⟨⟨hgrown, hroom, List.forall_mem_append.mpr ⟨hcodes, by simp [hw]⟩⟩, by simp [Lzw.registered]⟩

theorem Lzw.Narrow.feedAll {xs : List Nat} :
    ∀ {z : Lzw}, z.Narrow → z.feedAll m p xs = .ok z' →
      z'.Narrow ∧ z'.codes.length ≤ z.codes.length + 2 * xs.length := by
  induction xs with
  | nil => intro z h hf; cases hf; exact ⟨h, Nat.le_refl _⟩
  | cons x xs ih =>
    intro z h hf
    obtain ⟨z1, h1, hrest⟩ := Lzw.feedAll_cons_eq_ok hf
    obtain ⟨hn1, hl1⟩ := h.feed h1
    obtain ⟨hn, hl⟩ := ih hn1 hrest
    exact ⟨hn, by rw [List.length_cons]; omega⟩

/-- A run over `n` symbols emits at most 2n + 1 codes, none wider than 12 bits. -/
theorem lzwCodes_bound {d : Params} {sym : List Nat} {codes : List Code} (h : lzwCodes d p sym = .ok codes) :
    codes.length ≤ 2 * sym.length + 1 ∧ ∀ c ∈ codes, c.width ≤ 12 := by
  cases sym with
  | nil => cases h
  | cons s0 rest =>
    cases hz : (Lzw.start d.dictKey p s0).feedAll d.dictKey p rest with
    | error e => simp [lzwCodes, hz] at h
    | ok z =>
      rw [lzwCodes_of_feedAll hz] at h
      obtain ⟨hn, hl⟩ := (Lzw.narrow_start d.dictKey p s0).feedAll hz
      cases hc : codeOf z.dict z.cur with
      | error e => simp [Lzw.close, hc] at h
      | ok c =>
        rw [Lzw.close_of_codeOf hc] at h
        cases h
        refine ⟨?_, ?_⟩
        · simp only [Lzw.start, List.length_cons, List.length_nil] at hl
          simp only [List.length_append, List.length_cons, List.length_nil]
          omega
        · exact List.forall_mem_append.mpr ⟨hn.codes_le, by simp [hn.width_le, eoiWidth_le d.finalGrowth hn]⟩

end StreamLength

/-- The bits a packer has taken. -/
def Packer.bits (k : Packer) : Nat := 8 * k.data.length + k.off

theorem Packer.putBit_bits {k : Packer} (h : k.off < 8) (b : Bool) :
    (k.putBit b).off < 8 ∧ (k.putBit b).bits = k.bits + 1 := by
  unfold Packer.putBit
  dsimp only
  split
  · simp only [Packer.bits, List.length_append, List.length_singleton]
    omega
  · simp only [Packer.bits]
    omega

theorem Packer.foldl_putBit_bits (g : Nat → Bool) (js : List Nat) : ∀ {k : Packer}, k.off < 8 →
    (js.foldl (fun k j => k.putBit (g j)) k).off < 8 ∧
      (js.foldl (fun k j => k.putBit (g j)) k).bits = k.bits + js.length := by
  induction js with
  | nil => intro k h; exact ⟨h, rfl⟩
  | cons j js ih =>
    intro k h
    obtain ⟨h1, hb1⟩ := Packer.putBit_bits h (g j)
    obtain ⟨h2, hb2⟩ := ih h1
    exact ⟨h2, by rw [List.foldl_cons, hb2, hb1, List.length_cons]; omega⟩

theorem Packer.putCode_bits {k : Packer} (h : k.off < 8) (c : Code) :
    (k.putCode c).off < 8 ∧ (k.putCode c).bits = k.bits + c.width := by
  simpa [Packer.putCode] using Packer.foldl_putBit_bits c.value.testBit (List.range c.width) h

theorem Packer.foldl_putCode_bits (codes : List Code) : ∀ {k : Packer}, k.off < 8 →
    (codes.foldl Packer.putCode k).off < 8 ∧
      (codes.foldl Packer.putCode k).bits = k.bits + (codes.map Code.width).sum := by
  induction codes with
  | nil => intro k h; exact ⟨h, rfl⟩
  | cons c codes ih =>
    intro k h
    obtain ⟨h1, hb1⟩ := Packer.putCode_bits h c
    obtain ⟨h2, hb2⟩ := ih h1
    exact ⟨h2, by rw [List.foldl_cons, hb2, hb1, List.map_cons, List.sum_cons]; omega⟩

theorem Packer.length_flush {k : Packer} (h : k.off < 8) : k.flush.length = (k.bits + 7) / 8 := by
  unfold Packer.flush Packer.bits
  split
  · rw [List.length_append, List.length_singleton]
    omega
  · omega

/-- The packed data are as many bytes as the bits need (41_lzw.md R216). -/
theorem length_pack (codes : List Code) : (pack codes).length = ((codes.map Code.width).sum + 7) / 8 := by
  obtain ⟨hoff, hbits⟩ := Packer.foldl_putCode_bits codes (k := Packer.start) (Nat.zero_lt_succ 7)
  have hstart : Packer.start.bits = 0 := rfl
  rw [pack, Packer.length_flush hoff, hbits, hstart, Nat.zero_add]

/-- One length byte for each chunk of up to 255 bytes (41_lzw.md R218). -/
theorem length_chunks (n : Nat) : ∀ {data : List Byte}, data.length ≤ n →
    (chunks n data).length = data.length + (data.length + 254) / 255 := by
  induction n with
  | zero =>
    intro data h
    obtain rfl := List.eq_nil_of_length_eq_zero (Nat.le_zero.mp h)
    rfl
  | succ n ih =>
    intro data h
    by_cases hnil : data = []
    · subst hnil
      rfl
    · have hpos : 0 < data.length := List.length_pos_of_ne_nil hnil
      rw [chunks, if_neg hnil, List.cons_append, List.length_cons, List.length_append, List.length_take,
        ih (by rw [List.length_drop, show blockMax = 255 from rfl]; omega), List.length_drop,
        show blockMax = 255 from rfl]
      omega

theorem length_terminator_le (always : Bool) (m : Nat) : (terminator always m).length ≤ 1 := by
  unfold terminator
  split <;> simp

theorem length_subBlocks_le (always : Bool) (data : List Byte) :
    (subBlocks always data).length ≤ data.length + (data.length + 254) / 255 + 1 := by
  have hterm := length_terminator_le always data.length
  rw [subBlocks, List.length_append, length_chunks _ (Nat.le_refl _)]
  omega

/-- Over `n` palette symbols the stream exists and has at most 4n + 7 bytes. -/
theorem lzwStream_of_palette (d : Params) {p : PaletteSize} {sym : List Nat} (hne : sym ≠ [])
    (hsym : ∀ x ∈ sym, x < p.toNat) :
    ∃ bytes, lzwStream d p sym = .ok bytes ∧ bytes.length ≤ 4 * sym.length + 7 := by
  obtain ⟨codes, hc⟩ := lzwCodes_ok_of_palette d hne hsym
  obtain ⟨hlen, hwidth⟩ := lzwCodes_bound hc
  refine ⟨_, lzwStream_of_codes hc, ?_⟩
  have htotal : (codes.map Code.width).sum ≤ codes.length * 12 := by
    simpa using List.sum_le_card_nsmul (codes.map Code.width) 12 (by simpa using hwidth)
  have hpack := length_pack codes
  have hsub := length_subBlocks_le d.termAlways (pack codes)
  rw [List.length_cons]
  omega

end Sys2Proof.Machine

/-! ## FINISH on palette frames, and its faults (40_container.md R174, R176) -/

namespace Sys2Proof.Machine

theorem getD_zero_or_mem (f : List Nat) (k : Nat) : f.getD k 0 = 0 ∨ f.getD k 0 ∈ f := by
  by_cases hk : k < f.length
  · rw [List.getD_eq_getElem _ _ hk]
    exact .inr (List.getElem_mem hk)
  · exact .inl (List.getD_eq_default _ _ (Nat.le_of_not_lt hk))

/-- A symbol of a payload is an index of its frame, or stands for a missing pixel. -/
theorem mem_extract {f : List Nat} {r : Rect} {w sc x : Nat} (h : x ∈ extract f r w sc) : x = 0 ∨ x ∈ f := by
  rw [extract_eq_map] at h
  obtain ⟨k, -, rfl⟩ := List.mem_map.mp h
  exact getD_zero_or_mem f _

theorem frame_mem_of_mem {s : State} {f x : Nat} (h : x ∈ s.frame f) : s.frame f ∈ s.frames := by
  by_cases hf : f < s.nframes
  · exact frame_mem hf
  · rw [State.frame, List.getD_eq_default _ _ (Nat.le_of_not_lt hf)] at h
    cases h

/-- A foreign symbol of a payload is one of a stored frame: 0 is an index of every palette. -/
theorem foreign_index_of_payload {s : State} {f : Nat} {r : Rect}
    (h : ∃ x ∈ s.payload f r, s.session.psize.toNat ≤ x) :
    ∃ g ∈ s.frames, ∃ x ∈ g, s.session.psize.toNat ≤ x := by
  obtain ⟨x, hx, hle⟩ := h
  rcases mem_extract hx with rfl | hx
  · cases hp : s.session.psize <;> simp [hp, PaletteSize.toNat] at hle
  · exact ⟨_, frame_mem_of_mem hx, x, hx, hle⟩

/-- The rectangle of an emission has a pixel and lies on the canvas (40_container.md R164, R165). -/
theorem finishRect_within {s : State} (hw : 1 ≤ s.session.width.toNat) (hh : 1 ≤ s.session.height.toNat)
    {prev : Option Nat} {f : Nat} {r : Rect} (hr : finishRect s prev f = some r) :
    1 ≤ r.w ∧ 1 ≤ r.h ∧ r.w ≤ s.session.width.toNat ∧ r.h ≤ s.session.height.toNat := by
  cases prev with
  | none => cases hr; exact ⟨hw, hh, Nat.le_refl _, Nat.le_refl _⟩
  | some e =>
    obtain ⟨h1, h2, h3, h4⟩ := bbox_within hr
    omega

section PaletteFrames

variable {s : State}
  (hsess : 1 ≤ s.session.width.toNat ∧ 1 ≤ s.session.height.toNat ∧ 1 ≤ s.session.scale.toNat)
  (hpal : ∀ f ∈ s.frames, ∀ x ∈ f, x < s.session.psize.toNat)

include hsess hpal

/-- The room one emission can need: 18 bytes of blocks and the stream of a whole frame. -/
theorem triple_of_palette {prev : Option Nat} {f : Nat} {r : Rect} (hr : finishRect s prev f = some r) :
    ∃ a, s.triple prev f r = .ok a ∧
      a.length ≤ 4 * (s.session.width.toNat * s.session.height.toNat * s.session.scale.toNat ^ 2) + 25 := by
  obtain ⟨hw, hh, hs⟩ := hsess
  obtain ⟨hrw, hrh, hrw', hrh'⟩ := finishRect_within hw hh hr
  have hsym : ∀ x ∈ s.payload f r, x < s.session.psize.toNat := by
    by_contra! hforeign
    obtain ⟨g, hg, x, hx, hle⟩ := foreign_index_of_payload hforeign
    exact absurd (hpal g hg x hx) (Nat.not_lt.mpr hle)
  have hne : s.payload f r ≠ [] := extract_ne_nil _ _ hrw hrh hs
  obtain ⟨bytes, hstream, hlen⟩ := lzwStream_of_palette s.dev hne hsym
  refine ⟨_, triple_of_stream hstream, ?_⟩
  have hpixels : (s.payload f r).length ≤
      s.session.width.toNat * s.session.height.toNat * s.session.scale.toNat ^ 2 := by
    rw [State.payload, length_extract]
    exact Nat.mul_le_mul_right _ (Nat.mul_le_mul hrw' hrh')
  rw [List.length_append, length_blocks]
  omega

theorem triples_of_palette (fs : List Nat) : ∀ prev : Option Nat, ∃ body, s.triples prev fs = .ok body ∧
    body.length ≤
      fs.length * (4 * (s.session.width.toNat * s.session.height.toNat * s.session.scale.toNat ^ 2) + 25) := by
  induction fs with
  | nil => intro prev; exact ⟨[], rfl, Nat.zero_le _⟩
  | cons f fs ih =>
    intro prev
    rw [List.length_cons, Nat.succ_mul]
    cases hr : finishRect s prev f with
    | none =>
      obtain ⟨body, hb, hlen⟩ := ih prev
      exact ⟨body, (triples_cons_of_none hr fs).trans hb, Nat.le_add_right_of_le hlen⟩
    | some r =>
      obtain ⟨a, ha, hlena⟩ := triple_of_palette hsess hpal hr
      obtain ⟨rest, hrest, hlen⟩ := ih (some f)
      exact ⟨a ++ rest, triples_cons_of_some hr ha hrest, by rw [List.length_append]; omega⟩

end PaletteFrames

theorem length_emitted_le (s : State) : s.emitted.length ≤ s.nframes := by
  rw [emitted_eq_filter]
  simpa using List.length_filter_le s.endsRun (List.range s.nframes)

theorem State.Inv.session_pos {s : State} (h : s.Inv) (hp : s.phase = .accumulating) :
    1 ≤ s.session.width.toNat ∧ 1 ≤ s.session.height.toNat ∧ 1 ≤ s.session.scale.toNat := by
  obtain ⟨-, -, -, -, hsess, -⟩ := h
  obtain ⟨hw, hh, hs, -⟩ := hsess (.inl hp)
  exact ⟨hw, hh, hs⟩

/-- Settles O55. -/
theorem finishCompletesOnPaletteFrames : Obligations.FinishCompletesOnPaletteFrames := by
  unfold Obligations.FinishCompletesOnPaletteFrames
  intro s h hp hpal hroom
  obtain ⟨body, hbody, hlen⟩ := triples_of_palette (h.session_pos hp) hpal s.emitted none
  have hcount := hlen.trans (Nat.mul_le_mul_right _ (length_emitted_le s))
  have hfits : s.outlen.toNat + body.length + 1 ≤ s.dev.outBytes :=
    le_trans (Nat.add_le_add_right (Nat.add_le_add_left hcount _) 1) hroom
  obtain ⟨t, ht, hframe, -, hout⟩ := exec_finish_of_triples h hp hbody hfits
  exact ⟨t, ht, hframe, body, hbody, hout⟩

/-! ### SYMBOL_RANGE in FINISH needs a stored index outside the palette -/

/-- What an emission of FINISH can raise: OUT_OVERFLOW, or what the compressor raises on a payload. -/
def State.EmissionFault (s : State) (e : FaultCode) : Prop :=
  e = .outOverflow ∨ ∃ f r, lzwStream s.dev s.session.psize (s.payload f r) = .error e

section EmissionFault

variable {s : State} {e : FaultCode}

theorem emitFrame_emissionFault {acc f : Nat} {r : Rect} {b : OutBuf} (h : emitFrame s acc f r b = .error e) :
    s.EmissionFault e := by
  unfold emitFrame at h
  dsimp only at h
  split at h
  · rename_i he; cases h; exact .inl (outAppendAll_error he)
  · split at h
    · rename_i he; cases h; exact .inl (outAppendAll_error he)
    · split at h
      · rename_i he; cases h; exact .inr ⟨f, r, he⟩
      · exact .inl (outAppendAll_error h)

theorem finishFrame_emissionFault {f : Nat} {k : FinishPass} {b : OutBuf} (h : finishFrame s f k b = .error e) :
    s.EmissionFault e := by
  unfold finishFrame at h
  dsimp only at h
  split at h
  · cases h
  · split at h
    · cases h
    · split at h
      · rename_i he; cases h; exact emitFrame_emissionFault he
      · cases h

theorem finishLoop_emissionFault {fs : List Nat} : ∀ {k : FinishPass} {b : OutBuf},
    finishLoop s fs k b = .error e → s.EmissionFault e := by
  induction fs with
  | nil => intro k b h; cases h
  | cons f fs ih =>
    intro k b h
    unfold finishLoop at h
    split at h
    · rename_i he; cases h; exact finishFrame_emissionFault he
    · exact ih h

theorem finishOut_emissionFault (h : finishOut s = .error e) : s.EmissionFault e := by
  unfold finishOut at h
  split at h
  · exact .inl (outAppendAll_error h)
  · split at h
    · rename_i he; cases h; exact finishLoop_emissionFault he
    · exact .inl (outAppendAll_error h)

/-- SYMBOL_RANGE comes from a stored index that the palette does not have (40_container.md R176). -/
theorem foreign_index_of_finishOut (h : finishOut s = .error .symbolRange) :
    ∃ g ∈ s.frames, ∃ x ∈ g, s.session.psize.toNat ≤ x := by
  rcases finishOut_emissionFault h with he | ⟨f, r, he⟩
  · cases he
  · exact foreign_index_of_payload (foreign_symbol_of_symbolRange he)

/-- In a session the only index outside the palette is the sentinel 8, which P = 16 has as an index. -/
theorem State.Inv.sentinel_of_foreign (h : s.Inv) (hf : ∃ g ∈ s.frames, ∃ x ∈ g, s.session.psize.toNat ≤ x) :
    s.session.psize ≠ .sixteen ∧ ∃ f ∈ s.frames, 8 ∈ f := by
  obtain ⟨-, -, -, -, -, ⟨-, -, hframes⟩, -⟩ := h
  obtain ⟨f, hf, x, hx, hle⟩ := hf
  rcases (hframes f hf).2 x hx with hlt | heq
  · omega
  · obtain rfl : x = 8 := heq
    refine ⟨fun h16 => ?_, f, hf, hx⟩
    rw [h16] at hle
    exact absurd hle (by decide)

end EmissionFault

/-- Settles O56. -/
theorem finishFaultsOnlyAsTheRuleSays : Obligations.FinishFaultsOnlyAsTheRuleSays := by
  unfold Obligations.FinishFaultsOnlyAsTheRuleSays
  intro s t h hp ht
  have hnf : s.phase ≠ .fault := by simp [hp]
  rw [exec_finish hp] at ht
  cases ht
  rcases finishBody_cases s with ⟨e, ho, he⟩ | ⟨b, -, he⟩ <;> rw [he]
  · refine ⟨rfl, .inr ⟨rfl, ?_⟩⟩
    rcases (finishOut_runsTo h.outBytes_lt (h.session_pos hp) (h.out_fits hnf)).error ho with rfl | rfl
    · exact .inr ⟨rfl, h.sentinel_of_foreign (foreign_index_of_finishOut ho)⟩
    · exact .inl rfl
  · exact ⟨rfl, .inl ⟨rfl, h.noFault hnf⟩⟩

end Sys2Proof.Machine

/-! # LZW family: the compressor and LZW_ENCODE -/

/-! ## Runs of the compressor (41_lzw.md R207 to R215) -/

namespace Sys2Proof.Machine

/-- A code is that of an entry of the dictionary (41_lzw.md R206). -/
theorem mem_of_codeOf {d : Dict} {k : Key} {c : Nat} (h : codeOf d k = .ok c) : (k, c) ∈ d := by
  induction d with
  | nil => cases h
  | cons e d ih =>
    obtain ⟨j, b⟩ := e
    rw [codeOf, dictFind] at h
    by_cases hj : j = k
    · rw [if_pos hj] at h
      rw [hj, Except.ok.inj h]
      exact List.mem_cons_self
    · rw [if_neg hj] at h
      exact List.mem_cons_of_mem _ (ih h)

theorem mem_keys_of_codeOf {d : Dict} {k : Key} {c : Nat} (h : codeOf d k = .ok c) : k ∈ d.map Prod.fst :=
  List.mem_map_of_mem (mem_of_codeOf h)

section LzwRun

variable {m : DictKey} {p : PaletteSize}

/-- What a symbol that raises no fault can do: extend the match, or emit the code of the match and go on with a new
table or a new entry. -/
theorem Lzw.feed_eq_ok {z z' : Lzw} {x : Nat} (h : z.feed m p x = .ok z') :
    (keyext z.cur x ∈ z.dict.map Prod.fst ∧ z' = { z with cur := keyext z.cur x }) ∨
    (keyext z.cur x ∉ z.dict.map Prod.fst ∧ ∃ c, codeOf ((keyext z.cur x, z.size) :: z.dict) z.cur = .ok c ∧
      (z' = z.restarted m p x c ∨ z' = z.registered m x (keyext z.cur x) c)) := by
  rcases Lzw.feed_eq m p z x with ⟨hm, he⟩ | ⟨hm, he⟩ <;> rw [he] at h
  · exact .inl ⟨hm, (Except.ok.inj h).symm⟩
  · cases hc : codeOf ((keyext z.cur x, z.size) :: z.dict) z.cur with
    | error e => simp [Lzw.miss, hc] at h
    | ok c =>
      refine .inr ⟨hm, c, rfl, ?_⟩
      rcases Lzw.miss_of_codeOf (m := m) (p := p) (x := x) hc with ⟨-, he'⟩ | ⟨-, he'⟩ <;> rw [he'] at h
      · exact .inl (Except.ok.inj h).symm
      · exact .inr (Except.ok.inj h).symm

/-- What every fed symbol keeps holds after all of them. -/
theorem Lzw.feedAll_keeps {I : Lzw → Prop} {xs : List Nat}
    (hfeed : ∀ x ∈ xs, ∀ {z z' : Lzw}, I z → z.feed m p x = .ok z' → I z') :
    ∀ {z z' : Lzw}, I z → z.feedAll m p xs = .ok z' → I z' := by
  induction xs with
  | nil => intro z z' h hz; cases hz; exact h
  | cons x xs ih =>
    intro z z' h hz
    obtain ⟨hx, hxs⟩ := List.forall_mem_cons.mp hfeed
    obtain ⟨z1, h1, hrest⟩ := Lzw.feedAll_cons_eq_ok hz
    exact ih hxs (hx h h1) hrest

/-- The loop of 41_lzw.md R207 over `sym` ends in `z`, whose match has code `c`. -/
def Lzw.EndsAt (m : DictKey) (p : PaletteSize) (sym : List Nat) (z : Lzw) (c : Nat) : Prop :=
  ∃ s0 rest, sym = s0 :: rest ∧ (Lzw.start m p s0).feedAll m p rest = .ok z ∧ codeOf z.dict z.cur = .ok c

/-- A run answers the codes of its loop, the final code and EOI (41_lzw.md R213, R214). -/
theorem lzwCodes_eq_ok {d : Params} {sym : List Nat} {codes : List Code} :
    lzwCodes d p sym = .ok codes ↔ ∃ z c, Lzw.EndsAt d.dictKey p sym z c ∧
      codes = z.codes ++ [⟨c, z.w⟩, ⟨eoiCode p, eoiWidth d.finalGrowth z⟩] := by
  constructor
  · intro h
    cases sym with
    | nil => cases h
    | cons s0 rest =>
      cases hz : (Lzw.start d.dictKey p s0).feedAll d.dictKey p rest with
      | error e => simp [lzwCodes, hz] at h
      | ok z =>
        rw [lzwCodes_of_feedAll hz] at h
        cases hc : codeOf z.dict z.cur with
        | error e => simp [Lzw.close, hc] at h
        | ok c =>
          rw [Lzw.close_of_codeOf hc] at h
          exact ⟨z, c, ⟨s0, rest, rfl, hz, hc⟩, (Except.ok.inj h).symm⟩
  · rintro ⟨z, c, ⟨s0, rest, rfl, hz, hc⟩, rfl⟩
    rw [lzwCodes_of_feedAll hz, Lzw.close_of_codeOf hc]

/-- What holds at the start of a run and is kept by every symbol holds at its end. -/
theorem Lzw.EndsAt.of_kept {I : Lzw → Prop} {sym : List Nat} {z : Lzw} {c : Nat} (h : Lzw.EndsAt m p sym z c)
    (hstart : ∀ x ∈ sym, I (Lzw.start m p x))
    (hfeed : ∀ x ∈ sym, ∀ {z z' : Lzw}, I z → z.feed m p x = .ok z' → I z') : I z := by
  obtain ⟨s0, rest, rfl, hz, -⟩ := h
  exact Lzw.feedAll_keeps (fun x hx => hfeed x (List.mem_cons_of_mem _ hx)) (hstart s0 List.mem_cons_self) hz

end LzwRun

end Sys2Proof.Machine

/-! ## Which symbols a run accepts (41_lzw.md R217, R226) -/

namespace Sys2Proof.Machine

/-- Settles O32. -/
theorem compressorAcceptsPaletteSymbols : Obligations.CompressorAcceptsPaletteSymbols := by
  unfold Obligations.CompressorAcceptsPaletteSymbols
  exact fun d _ _ hne hsym => lzwCodes_ok_of_palette d hne hsym

/-- With exact keys, as long as all symbols have been palette symbols: every key, and the match, is a sequence of
them. -/
structure Lzw.PaletteOnly (p : PaletteSize) (z : Lzw) : Prop where
  keys : ∀ q, .sequence q ∈ z.dict.map Prod.fst → ∀ y ∈ q, y < p.toNat
  cur : ∃ a t, z.cur = .sequence (a :: t) ∧ ∀ y ∈ a :: t, y < p.toNat

/-- With exact keys, once a foreign symbol `x` has been read: the match is `x` alone, and no key begins with it. -/
def Lzw.Stuck (z : Lzw) : Prop :=
  ∃ x, z.cur = .sequence [x] ∧ ∀ q, .sequence (x :: q) ∉ z.dict.map Prod.fst

section ExactKeys

variable {p : PaletteSize} {z z' : Lzw} {x c : Nat}

theorem palette_of_mem_seedDict {q : List Nat} (h : .sequence q ∈ (seedDict .exactSeq p).map Prod.fst) :
    ∀ y ∈ q, y < p.toNat := by
  simp only [seedDict, List.map_map, List.mem_map, List.mem_range, Function.comp_apply, key1, Key.sequence.injEq] at h
  obtain ⟨i, hi, rfl⟩ := h
  simpa using hi

theorem not_mem_seedDict_of_foreign (hx : p.toNat ≤ x) (q : List Nat) :
    .sequence (x :: q) ∉ (seedDict .exactSeq p).map Prod.fst :=
  fun h => absurd (palette_of_mem_seedDict h x List.mem_cons_self) (Nat.not_lt.mpr hx)

/-- A stuck run has no code for its match, neither at a miss nor at the end. -/
theorem Lzw.Stuck.codeOf_ne_ok (h : z.Stuck) : codeOf z.dict z.cur ≠ .ok c := by
  obtain ⟨x, hcur, hkeys⟩ := h
  intro hc
  exact hkeys [] (hcur ▸ mem_keys_of_codeOf hc)

theorem Lzw.Stuck.feed_ne_ok (h : z.Stuck) : z.feed .exactSeq p x ≠ .ok z' := by
  obtain ⟨y, hcur, hkeys⟩ := h
  intro hf
  rcases Lzw.feed_eq_ok hf with ⟨hm, -⟩ | ⟨-, c, hc, -⟩
  · rw [hcur] at hm
    exact hkeys [x] hm
  · have hmem := mem_keys_of_codeOf hc
    rw [hcur, List.map_cons, List.mem_cons] at hmem
    rcases hmem with heq | hmem
    · simp [keyext] at heq
    · exact hkeys [] hmem

/-- A stuck run never comes to an end (41_lzw.md R217 (b)). -/
theorem Lzw.Stuck.no_end (h : z.Stuck) {xs : List Nat} (hf : z.feedAll .exactSeq p xs = .ok z') :
    codeOf z'.dict z'.cur ≠ .ok c := by
  cases xs with
  | nil => cases hf; exact h.codeOf_ne_ok
  | cons x xs =>
    obtain ⟨z1, h1, -⟩ := Lzw.feedAll_cons_eq_ok hf
    exact absurd h1 h.feed_ne_ok

theorem Lzw.paletteOnly_start (hx : x < p.toNat) : (Lzw.start .exactSeq p x).PaletteOnly p :=
  ⟨fun _ => palette_of_mem_seedDict, x, [], rfl, by simpa using hx⟩

theorem Lzw.stuck_start (hx : p.toNat ≤ x) : (Lzw.start .exactSeq p x).Stuck :=
  ⟨x, rfl, not_mem_seedDict_of_foreign hx⟩

/-- A palette symbol keeps the run among palette symbols. -/
theorem Lzw.PaletteOnly.feed (h : z.PaletteOnly p) (hx : x < p.toNat) (hf : z.feed .exactSeq p x = .ok z') :
    z'.PaletteOnly p := by
  obtain ⟨hkeys, a, t, hcur, hat⟩ := h
  have hext : ∀ y ∈ a :: t ++ [x], y < p.toNat := List.forall_mem_append.mpr ⟨hat, by simpa using hx⟩
  rcases Lzw.feed_eq_ok hf with ⟨-, rfl⟩ | ⟨-, c, -, rfl | rfl⟩
  · exact ⟨hkeys, a, t ++ [x], by simp [hcur, keyext], hext⟩
  · obtain ⟨hkeys', hcur'⟩ := Lzw.paletteOnly_start hx
    exact ⟨hkeys', hcur'⟩
  · refine ⟨fun q hq => ?_, x, [], rfl, by simpa using hx⟩
    rw [Lzw.registered, List.map_cons, List.mem_cons, hcur] at hq
    rcases hq with heq | hq
    · obtain rfl := Key.sequence.inj heq
      exact hext
    · exact hkeys q hq

/-- The first foreign symbol leaves the run stuck. -/
theorem Lzw.PaletteOnly.feed_foreign (h : z.PaletteOnly p) (hx : p.toNat ≤ x)
    (hf : z.feed .exactSeq p x = .ok z') : z'.Stuck := by
  obtain ⟨hkeys, a, t, hcur, hat⟩ := h
  rcases Lzw.feed_eq_ok hf with ⟨hm, -⟩ | ⟨-, c, -, rfl | rfl⟩
  · rw [hcur] at hm
    exact absurd (hkeys _ hm x (by simp)) (Nat.not_lt.mpr hx)
  · exact ⟨x, rfl, not_mem_seedDict_of_foreign hx⟩
  · refine ⟨x, rfl, fun q hq => ?_⟩
    rw [Lzw.registered, List.map_cons, List.mem_cons, hcur] at hq
    rcases hq with heq | hq
    · obtain ⟨rfl, -⟩ := List.cons.inj (Key.sequence.inj heq)
      exact absurd (hat x List.mem_cons_self) (Nat.not_lt.mpr hx)
    · exact absurd (hkeys _ hq x List.mem_cons_self) (Nat.not_lt.mpr hx)

theorem Lzw.PaletteOnly.palette_of_end {xs : List Nat} : ∀ {z : Lzw}, z.PaletteOnly p →
    z.feedAll .exactSeq p xs = .ok z' → codeOf z'.dict z'.cur = .ok c → ∀ x ∈ xs, x < p.toNat := by
  induction xs with
  | nil => intro _ _ _ _ _ hx; cases hx
  | cons x xs ih =>
    intro z h hf hc
    obtain ⟨z1, h1, hrest⟩ := Lzw.feedAll_cons_eq_ok hf
    rcases Nat.lt_or_ge x p.toNat with hx | hx
    · exact List.forall_mem_cons.mpr ⟨hx, ih (h.feed hx h1) hrest hc⟩
    · exact absurd hc ((h.feed_foreign hx h1).no_end hrest)

/-- With exact keys, a run that answers codes was given palette symbols only (41_lzw.md R217 (b)). -/
theorem palette_of_exact_codes {d : Params} {sym : List Nat} {codes : List Code} (hd : d.dictKey = .exactSeq)
    (h : lzwCodes d p sym = .ok codes) : ∀ x ∈ sym, x < p.toNat := by
  obtain ⟨z, c, ⟨s0, rest, rfl, hz, hc⟩, -⟩ := lzwCodes_eq_ok.mp h
  rw [hd] at hz
  rcases Nat.lt_or_ge s0 p.toNat with h0 | h0
  · exact List.forall_mem_cons.mpr ⟨h0, (Lzw.paletteOnly_start h0).palette_of_end hz hc⟩
  · exact absurd hc ((Lzw.stuck_start h0).no_end hz)

end ExactKeys

/-- Settles O33: a run that answers codes was given palette symbols only, and the one fault is SYMBOL_RANGE. -/
theorem exactKeysFaultOnForeignSymbols : Obligations.ExactKeysFaultOnForeignSymbols := by
  unfold Obligations.ExactKeysFaultOnForeignSymbols
  intro d p sym hd ⟨x, hx, hle⟩
  cases h : lzwCodes d p sym with
  | error f => rw [lzwCodes_error (List.ne_nil_of_mem hx) h]
  | ok codes => exact absurd (palette_of_exact_codes hd h x hx) (Nat.not_lt.mpr hle)

end Sys2Proof.Machine

/-! ## Widths and values of the codes (41_lzw.md R221 to R223) -/

namespace Sys2Proof.Machine

/-- No code is narrower than the starting width (41_lzw.md R221). -/
structure Lzw.Wide (p : PaletteSize) (z : Lzw) : Prop where
  le_width : startWidth p ≤ z.w
  le_codes : ∀ c ∈ z.codes, startWidth p ≤ c.width

/-- Every code fits its width, because every code is below the table's size and the size is at most 2^w
(41_lzw.md R221, R222). -/
structure Lzw.Fitting (p : PaletteSize) (z : Lzw) : Prop where
  seed_le : seedSize p ≤ z.size
  size_le : z.size ≤ 2 ^ z.w
  entries_lt : ∀ e ∈ z.dict, e.2 < z.size
  codes_lt : ∀ c ∈ z.codes, c.value < 2 ^ c.width

section CodeWidths

variable {m : DictKey} {p : PaletteSize} {z z' : Lzw} {x : Nat}

theorem le_grownWidth (w size : Nat) : w ≤ grownWidth w size := by
  unfold grownWidth
  split <;> omega

theorem le_eoiWidth (growth : Bool) (z : Lzw) : z.w ≤ eoiWidth growth z := by
  unfold eoiWidth
  split <;> omega

/-- One more entry fits the grown width (41_lzw.md R210). -/
theorem succ_le_two_pow_grownWidth {w size : Nat} (h : size ≤ 2 ^ w) : size + 1 ≤ 2 ^ grownWidth w (size + 1) := by
  unfold grownWidth
  split
  · have hpos := Nat.two_pow_pos w
    rw [Nat.pow_succ]
    omega
  · omega

theorem seedSize_le_two_pow (p : PaletteSize) : seedSize p ≤ 2 ^ startWidth p := by cases p <;> decide

theorem Lzw.wide_start : (Lzw.start m p x).Wide p := ⟨Nat.le_refl _, by simp [Lzw.start]⟩

theorem Lzw.Wide.feed (h : z.Wide p) (hf : z.feed m p x = .ok z') : z'.Wide p := by
  obtain ⟨hw, hcodes⟩ := h
  have hgrown := hw.trans (le_grownWidth z.w (z.size + 1))
  rcases Lzw.feed_eq_ok hf with ⟨-, rfl⟩ | ⟨-, c, -, rfl | rfl⟩
  · exact ⟨hw, hcodes⟩
  · exact ⟨Nat.le_refl _, List.forall_mem_append.mpr ⟨hcodes, by simp [hw, hgrown]⟩⟩
  · exact ⟨hgrown, List.forall_mem_append.mpr ⟨hcodes, by simp [hw]⟩⟩

theorem Lzw.EndsAt.wide {sym : List Nat} {c : Nat} (h : Lzw.EndsAt m p sym z c) : z.Wide p :=
  h.of_kept (fun _ _ => Lzw.wide_start) fun _ _ _ _ => Lzw.Wide.feed

theorem startWidth_le_of_mem {d : Params} {sym : List Nat} {codes : List Code} (h : lzwCodes d p sym = .ok codes) :
    ∀ c ∈ codes, startWidth p ≤ c.width := by
  obtain ⟨z, c, hend, rfl⟩ := lzwCodes_eq_ok.mp h
  obtain ⟨hw, hcodes⟩ := hend.wide
  exact List.forall_mem_append.mpr ⟨hcodes, by simp [hw, hw.trans (le_eoiWidth d.finalGrowth z)]⟩

theorem snd_lt_of_mem_seedDict {e : Key × Nat} (he : e ∈ seedDict m p) : e.2 < seedSize p := by
  obtain ⟨i, hi, rfl⟩ := List.mem_map.mp he
  exact Nat.lt_add_right 2 (List.mem_range.mp hi)

theorem clearCode_lt_seedSize (p : PaletteSize) : clearCode p < seedSize p := Nat.lt_add_of_pos_right Nat.two_pos

theorem eoiCode_lt_seedSize (p : PaletteSize) : eoiCode p < seedSize p := Nat.lt_succ_self _

theorem Lzw.fitting_start : (Lzw.start m p x).Fitting p :=
  ⟨Nat.le_refl _, seedSize_le_two_pow p, fun _ => snd_lt_of_mem_seedDict,
    by simpa [Lzw.start] using (clearCode_lt_seedSize p).trans_le (seedSize_le_two_pow p)⟩

/-- A match that is in the table is not the new entry, so its code is an older one (41_lzw.md R222). -/
theorem Lzw.Fitting.feed (h : z.Fitting p) (hcur : z.cur ∈ z.dict.map Prod.fst) (hf : z.feed m p x = .ok z') :
    z'.Fitting p := by
  obtain ⟨hseed, hsize, hentries, hcodes⟩ := h
  have hgrown := succ_le_two_pow_grownWidth hsize
  rcases Lzw.feed_eq_ok hf with ⟨-, rfl⟩ | ⟨hmiss, c, hc, hz'⟩
  · exact ⟨hseed, hsize, hentries, hcodes⟩
  · have hlt : c < z.size := by
      rcases List.mem_cons.mp (mem_of_codeOf hc) with heq | hmem
      · exact absurd ((Prod.mk.inj heq).1 ▸ hcur) hmiss
      · exact hentries _ hmem
    have hfit := hlt.trans_le hsize
    rcases hz' with rfl | rfl
    · have hclear : clearCode p < 2 ^ grownWidth z.w (z.size + 1) :=
        ((clearCode_lt_seedSize p).trans_le hseed).trans (Nat.lt_of_succ_le hgrown)
      exact ⟨Nat.le_refl _, seedSize_le_two_pow p, fun _ => snd_lt_of_mem_seedDict,
        List.forall_mem_append.mpr ⟨hcodes, by simp [hfit, hclear]⟩⟩
    · refine ⟨Nat.le_succ_of_le hseed, hgrown, ?_, List.forall_mem_append.mpr ⟨hcodes, by simp [hfit]⟩⟩
      exact List.forall_mem_cons.mpr ⟨Nat.lt_succ_self _, fun e he => Nat.lt_succ_of_lt (hentries e he)⟩

theorem Lzw.EndsAt.fitting {sym : List Nat} {c : Nat} (h : Lzw.EndsAt m p sym z c)
    (hsym : ∀ x ∈ sym, x < p.toNat) : z.Fitting p := by
  have hboth : z.Ready m p ∧ z.Fitting p :=
    h.of_kept (I := fun z => z.Ready m p ∧ z.Fitting p)
      (fun x hx => ⟨Lzw.ready_start (hsym x hx), Lzw.fitting_start⟩) fun x hx z z' hz hf => by
        obtain ⟨hready, hfit⟩ := hz
        obtain ⟨z1, h1, hready'⟩ := hready.feed (hsym x hx)
        obtain rfl := Except.ok.inj (h1.symm.trans hf)
        exact ⟨hready', hfit.feed hready.cur_mem hf⟩
  exact hboth.2

/-- Over palette symbols every code fits its width (41_lzw.md R222). -/
theorem value_lt_of_palette {d : Params} {sym : List Nat} {codes : List Code} (h : lzwCodes d p sym = .ok codes)
    (hsym : ∀ x ∈ sym, x < p.toNat) : ∀ c ∈ codes, c.value < 2 ^ c.width := by
  obtain ⟨z, c, hend, rfl⟩ := lzwCodes_eq_ok.mp h
  obtain ⟨hseed, hsize, hentries, hcodes⟩ := hend.fitting hsym
  obtain ⟨-, -, -, -, hc⟩ := hend
  have hfinal : c < 2 ^ z.w := (hentries _ (mem_of_codeOf hc)).trans_le hsize
  have heoi : eoiCode p < 2 ^ eoiWidth d.finalGrowth z :=
    calc eoiCode p < seedSize p := eoiCode_lt_seedSize p
      _ ≤ 2 ^ z.w := hseed.trans hsize
      _ ≤ 2 ^ eoiWidth d.finalGrowth z := Nat.pow_le_pow_right Nat.two_pos (le_eoiWidth d.finalGrowth z)
  exact List.forall_mem_append.mpr ⟨hcodes, by simp [hfinal, heoi]⟩

/-- The first code of a run is the clear code (41_lzw.md R207). -/
theorem Lzw.EndsAt.head_codes {sym : List Nat} {c : Nat} (h : Lzw.EndsAt m p sym z c) :
    z.codes.head? = some ⟨clearCode p, startWidth p⟩ := by
  refine h.of_kept (I := fun z => z.codes.head? = some ⟨clearCode p, startWidth p⟩) (fun _ _ => rfl) ?_
  intro x _ z z' hhead hf
  rcases Lzw.feed_eq_ok hf with ⟨-, rfl⟩ | ⟨-, c, -, rfl | rfl⟩
  · exact hhead
  · simp [Lzw.restarted, hhead]
  · simp [Lzw.registered, hhead]

/-- A growing EOI is at most one bit wider (41_lzw.md R214, R215). -/
theorem eoiWidth_cases (growth : Bool) (z : Lzw) :
    eoiWidth growth z = z.w ∨ growth = true ∧ eoiWidth growth z = z.w + 1 := by
  unfold eoiWidth
  split
  · rename_i hg
    exact .inr ⟨(Bool.and_eq_true_iff.mp hg).1, rfl⟩
  · exact .inl rfl

end CodeWidths

/-- Settles O34: with exact keys only palette symbols are accepted, so that one case is left. -/
theorem emittedCodesFitTheirWidths : Obligations.EmittedCodesFitTheirWidths := by
  unfold Obligations.EmittedCodesFitTheirWidths
  intro d p sym codes h
  obtain ⟨-, hle⟩ := lzwCodes_bound h
  refine ⟨fun c hc => ⟨?_, hle c hc⟩, ?_⟩
  · have hge := startWidth_le_of_mem h c hc
    cases p <;> exact hge
  · rintro (hd | hsym)
    · exact value_lt_of_palette h (palette_of_exact_codes hd h)
    · exact value_lt_of_palette h hsym

/-- Settles O35. -/
theorem streamBeginsWithClearAndEndsWithEoi : Obligations.StreamBeginsWithClearAndEndsWithEoi := by
  unfold Obligations.StreamBeginsWithClearAndEndsWithEoi
  intro d p sym codes h init
  have hinit : init = initialCodeSize p := by cases p <;> rfl
  have hstream := lzwStream_of_codes h
  obtain ⟨z, c, hend, rfl⟩ := lzwCodes_eq_ok.mp h
  have hhead := hend.head_codes
  refine ⟨?_, ⟨z.codes, c, z.w, _, rfl, ?_, ?_, ?_⟩, _, hinit ▸ hstream⟩
  · rw [List.head?_append, hhead, hinit]
    rfl
  · intro hnil
    rw [hnil] at hhead
    cases hhead
  · intro hg
    rcases eoiWidth_cases d.finalGrowth z with he | ⟨hg', -⟩
    · exact he
    · rw [hg] at hg'
      cases hg'
  · rcases eoiWidth_cases d.finalGrowth z with he | ⟨-, he⟩
    · exact .inl he
    · exact .inr he

end Sys2Proof.Machine

/-! ## Packing and sub-blocks (41_lzw.md R212, R216, R218, R219, R225) -/

namespace Sys2Proof.Machine

/-- Bit `i` of a byte string, low bit of each byte first, 0 beyond its end (41_lzw.md R212). -/
def bitAt (data : List Byte) (i : Nat) : Bool := (data.getD (i / 8) 0).getLsbD (i % 8)

theorem bitAt_of_le {data : List Byte} {i : Nat} (h : 8 * data.length ≤ i) : bitAt data i = false := by
  rw [bitAt, List.getD_eq_default _ _ (by omega)]
  exact BitVec.getLsbD_zero

theorem bitAt_concat_of_lt {data : List Byte} {i : Nat} (b : Byte) (h : i < 8 * data.length) :
    bitAt (data ++ [b]) i = bitAt data i := by
  rw [bitAt, bitAt, List.getD_append _ _ _ _ (by omega)]

theorem bitAt_concat_last {data : List Byte} {j : Nat} (b : Byte) (h : j < 8) :
    bitAt (data ++ [b]) (8 * data.length + j) = b.getLsbD j := by
  rw [bitAt, show (8 * data.length + j) / 8 = data.length by omega, show (8 * data.length + j) % 8 = j by omega,
    List.getD_append_right _ _ _ _ (Nat.le_refl _), Nat.sub_self]
  rfl

/-- An index beyond the bytes, in the last one, or before it. -/
theorem bit_index_cases (data : List Byte) (i : Nat) :
    i < 8 * data.length ∨ (∃ j, j < 8 ∧ i = 8 * data.length + j) ∨ 8 * (data.length + 1) ≤ i := by
  rcases Nat.lt_or_ge i (8 * data.length) with h | h
  · exact .inl h
  · rcases Nat.lt_or_ge i (8 * (data.length + 1)) with h' | h'
    · exact .inr (.inl ⟨i - 8 * data.length, by omega, by omega⟩)
    · exact .inr (.inr h')

/-- A zero byte at the end adds no bit. -/
theorem bitAt_concat_zero (data : List Byte) (i : Nat) : bitAt (data ++ [0]) i = bitAt data i := by
  rcases bit_index_cases data i with h | ⟨j, hj, rfl⟩ | h
  · exact bitAt_concat_of_lt 0 h
  · rw [bitAt_concat_last 0 hj, bitAt_of_le (Nat.le_add_right _ _)]
    exact BitVec.getLsbD_zero
  · rw [bitAt_of_le (by simpa using h), bitAt_of_le (by omega)]

/-- Byte strings of one length with the same bits are equal. -/
theorem eq_of_bitAt_eq {xs ys : List Byte} (hlen : xs.length = ys.length) (h : ∀ i, bitAt xs i = bitAt ys i) :
    xs = ys := by
  refine List.ext_getElem hlen fun n hx hy => BitVec.eq_of_getLsbD_eq fun j hj => ?_
  have hbit := h (8 * n + j)
  rw [bitAt, bitAt, show (8 * n + j) / 8 = n by omega, show (8 * n + j) % 8 = j by omega,
    List.getD_eq_getElem _ _ hx, List.getD_eq_getElem _ _ hy] at hbit
  exact hbit

/-- The bits of a code, low bit first (41_lzw.md R212). -/
def Code.bits (c : Code) : List Bool := (List.range c.width).map c.value.testBit

/-- The packer has taken the bits `bs`: they stand in its data and its current byte, low bit first, with zeros after
them (10_state.md R60). -/
structure Packer.Holds (k : Packer) (bs : List Bool) : Prop where
  off_lt : k.off < 8
  count : k.bits = bs.length
  bit : ∀ i, bitAt (k.data ++ [k.cb]) i = bs.getD i false

theorem Packer.holds_start : Packer.start.Holds [] :=
  ⟨by decide, rfl, fun i => (bitAt_concat_zero [] i).trans (bitAt_of_le (Nat.zero_le i))⟩

theorem getD_concat_length (bs : List Bool) (b : Bool) : (bs ++ [b]).getD bs.length false = b := by
  simp [List.getD]

theorem getD_concat_of_ne {bs : List Bool} {i : Nat} (b : Bool) (h : i ≠ bs.length) :
    (bs ++ [b]).getD i false = bs.getD i false := by
  rcases Nat.lt_or_ge i bs.length with hi | hi
  · exact List.getD_append _ _ _ _ hi
  · rw [List.getD_eq_default _ _ hi, List.getD_eq_default _ _ (by simp; omega)]

/-- The bit that 41_lzw.md R212 sets in the current byte. -/
theorem getLsbD_or_ofBool_shiftLeft (cb : Byte) (b : Bool) {off j : Nat} (hj : j < 8) :
    (cb ||| (BitVec.ofBool b).setWidth 8 <<< off).getLsbD j = (cb.getLsbD j || (decide (j = off) && b)) := by
  have hbit : ((BitVec.ofBool b).setWidth 8 <<< off).getLsbD j = (decide (j = off) && b) := by
    rw [BitVec.getLsbD_shiftLeft]
    rcases Nat.lt_trichotomy j off with h | rfl | h
    · simp [h, Nat.ne_of_lt h]
    · simp [hj]
    · simp [Nat.ne_of_gt h, Nat.not_lt.mpr h.le, Nat.sub_ne_zero_of_lt h]
  rw [BitVec.getLsbD_or, hbit]

/-- Setting the next bit of the current byte (41_lzw.md R212). -/
theorem Packer.Holds.bit_set {k : Packer} {bs : List Bool} (h : k.Holds bs) (b : Bool) (i : Nat) :
    bitAt (k.data ++ [k.cb ||| (BitVec.ofBool b).setWidth 8 <<< k.off]) i = (bs ++ [b]).getD i false := by
  obtain ⟨hoff, hcount, hbit⟩ := h
  rw [Packer.bits] at hcount
  have hold := hbit i
  rcases bit_index_cases k.data i with hi | ⟨j, hj, rfl⟩ | hi
  · rw [bitAt_concat_of_lt _ hi] at hold ⊢
    rw [hold, getD_concat_of_ne _ (by omega)]
  · rw [bitAt_concat_last _ hj] at hold ⊢
    rw [getLsbD_or_ofBool_shiftLeft _ _ hj, hold]
    by_cases hjo : j = k.off
    · rw [hjo, hcount, getD_concat_length, List.getD_eq_default _ _ (Nat.le_refl _)]
      simp
    · rw [getD_concat_of_ne _ (by omega)]
      simp [hjo]
  · rw [bitAt_of_le (by simpa using hi), List.getD_eq_default]
    rw [List.length_append, List.length_singleton]
    omega

theorem Packer.Holds.putBit {k : Packer} {bs : List Bool} (h : k.Holds bs) (b : Bool) :
    (k.putBit b).Holds (bs ++ [b]) := by
  obtain ⟨hoff, hbits⟩ := Packer.putBit_bits h.off_lt b
  refine ⟨hoff, by rw [hbits, h.count, List.length_append, List.length_singleton], fun i => ?_⟩
  rw [← h.bit_set b i]
  unfold Packer.putBit
  dsimp only
  split
  · exact bitAt_concat_zero _ i
  · rfl

theorem Packer.Holds.foldl_putBit (g : Nat → Bool) (js : List Nat) : ∀ {k : Packer} {bs : List Bool}, k.Holds bs →
    (js.foldl (fun k j => k.putBit (g j)) k).Holds (bs ++ js.map g) := by
  induction js with
  | nil => intro k bs h; simpa using h
  | cons j js ih => intro k bs h; simpa using ih (h.putBit (g j))

theorem Packer.Holds.foldl_putCode (codes : List Code) : ∀ {k : Packer} {bs : List Bool}, k.Holds bs →
    (codes.foldl Packer.putCode k).Holds (bs ++ codes.flatMap Code.bits) := by
  induction codes with
  | nil => intro k bs h; simpa using h
  | cons c codes ih =>
    intro k bs h
    have hrest := ih (h.foldl_putBit c.value.testBit (List.range c.width))
    rw [List.append_assoc] at hrest
    exact hrest

/-- The final flush writes the bits that are left (41_lzw.md R216). -/
theorem Packer.Holds.bit_flush {k : Packer} {bs : List Bool} (h : k.Holds bs) (i : Nat) :
    bitAt k.flush i = bs.getD i false := by
  obtain ⟨hoff, hcount, hbit⟩ := h
  rw [Packer.bits] at hcount
  unfold Packer.flush
  split
  · exact hbit i
  · rcases Nat.lt_or_ge i (8 * k.data.length) with hi | hi
    · rw [← hbit i, bitAt_concat_of_lt _ hi]
    · rw [bitAt_of_le hi, List.getD_eq_default _ _ (by omega)]

/-- The bits of the packed data are those of the codes (41_lzw.md R212). -/
theorem bitAt_pack (codes : List Code) (i : Nat) :
    bitAt (pack codes) i = (codes.flatMap Code.bits).getD i false := by
  have hholds := Packer.holds_start.foldl_putCode codes
  rw [List.nil_append] at hholds
  exact hholds.bit_flush i

/-- Settles O36. -/
theorem packedBitsAreTheCodesLowBitFirst : Obligations.PackedBitsAreTheCodesLowBitFirst := by
  unfold Obligations.PackedBitsAreTheCodesLowBitFirst
  exact fun codes => ⟨length_pack codes, bitAt_pack codes⟩

/-- Chunk `k` of the data behind its length (41_lzw.md R218). -/
def chunkAt (data : List Byte) (k : Nat) : List Byte :=
  BitVec.ofNat 8 (min 255 (data.length - 255 * k)) :: (data.drop (255 * k)).take 255

theorem chunkAt_succ (data : List Byte) (k : Nat) : chunkAt data (k + 1) = chunkAt (data.drop 255) k := by
  rw [chunkAt, chunkAt, List.length_drop, List.drop_drop, show 255 * (k + 1) = 255 + 255 * k by omega, Nat.sub_sub]

/-- The chunks, one after the other (41_lzw.md R218). -/
theorem chunks_eq_flatMap (n : Nat) : ∀ {data : List Byte}, data.length ≤ n →
    chunks n data = (List.range ((data.length + 254) / 255)).flatMap (chunkAt data) := by
  induction n with
  | zero =>
    intro data h
    obtain rfl := List.eq_nil_of_length_eq_zero (Nat.le_zero.mp h)
    rfl
  | succ n ih =>
    intro data h
    by_cases hnil : data = []
    · subst hnil
      rfl
    · have hpos : 0 < data.length := List.length_pos_of_ne_nil hnil
      have hcount : (data.length + 254) / 255 = ((data.drop 255).length + 254) / 255 + 1 := by
        rw [List.length_drop]
        omega
      have hrest := ih (data := data.drop 255) (by rw [List.length_drop]; omega)
      rw [chunks, if_neg hnil, show blockMax = 255 from rfl, hrest, hcount, List.range_succ_eq_map, List.flatMap_cons,
        List.flatMap_map, List.length_take]
      simp only [chunkAt_succ]
      rfl

/-- Settles O37. -/
theorem subBlocksAreLengthPrefixedChunks : Obligations.SubBlocksAreLengthPrefixedChunks := by
  unfold Obligations.SubBlocksAreLengthPrefixedChunks
  intro always data
  rw [subBlocks, chunks_eq_flatMap _ (Nat.le_refl _)]
  rfl

theorem length_terminator (always : Bool) (m : Nat) :
    (terminator always m).length = if m % 255 = 0 ∧ always = false then 0 else 1 := by
  rw [terminator, show blockMax = 255 from rfl]
  split <;> rfl

theorem three_le_startWidth (p : PaletteSize) : 3 ≤ startWidth p := by cases p <;> decide

/-- Settles O38. -/
theorem streamLengthFollowsFromTheCodeWidths : Obligations.StreamLengthFollowsFromTheCodeWidths := by
  unfold Obligations.StreamLengthFollowsFromTheCodeWidths
  intro d p sym codes bytes hcodes hbytes total m
  have hwidth : ∀ c ∈ codes, 3 ≤ c.width := fun c hc =>
    (three_le_startWidth p).trans (startWidth_le_of_mem hcodes c hc)
  have hlen : 3 ≤ codes.length := by
    obtain ⟨z, c, hend, rfl⟩ := lzwCodes_eq_ok.mp hcodes
    obtain ⟨front, hfront⟩ := List.head?_eq_some_iff.mp hend.head_codes
    simp [hfront]
  have htotal : 9 ≤ total :=
    calc 9 ≤ codes.length * 3 := by omega
      _ ≤ total := by
        simpa using List.card_nsmul_le_sum (codes.map Code.width) 3 (by simpa using hwidth)
  refine ⟨hlen, hwidth, htotal, by omega, ?_⟩
  obtain rfl := Except.ok.inj (hbytes.symm.trans (lzwStream_of_codes hcodes))
  rw [List.length_cons, subBlocks, List.length_append, length_chunks _ (Nat.le_refl _), length_terminator, length_pack]
  show m + (m + 254) / 255 + (if m % 255 = 0 ∧ d.termAlways = false then 0 else 1) + 1 = _
  omega

/-! ### One more bit for EOI (41_lzw.md R224) -/

theorem getD_concat_false (bs : List Bool) (i : Nat) : (bs ++ [false]).getD i false = bs.getD i false := by
  by_cases hi : i = bs.length
  · rw [hi, getD_concat_length, List.getD_eq_default _ _ (Nat.le_refl _)]
  · exact getD_concat_of_ne false hi

/-- A code that fits its width has a zero as the next bit. -/
theorem Code.bits_widened {v w : Nat} (h : v < 2 ^ w) : (Code.mk v (w + 1)).bits = (Code.mk v w).bits ++ [false] := by
  simp [Code.bits, List.range_succ, Nat.testBit_lt_two_pow h]

theorem length_bits (codes : List Code) : (codes.flatMap Code.bits).length = (codes.map Code.width).sum := by
  simp [List.length_flatMap, Code.bits]

/-- One more zero bit lands in the zero padding, or in one zero byte more. -/
theorem pack_of_one_zero_bit {codes codes' : List Code}
    (h : codes'.flatMap Code.bits = codes.flatMap Code.bits ++ [false]) :
    pack codes' = pack codes ∨ (codes.map Code.width).sum % 8 = 0 ∧ pack codes' = pack codes ++ [0x00] := by
  have hbits : ∀ i, bitAt (pack codes') i = bitAt (pack codes) i := fun i => by
    rw [bitAt_pack, bitAt_pack, h, getD_concat_false]
  have hsum : (codes'.map Code.width).sum = (codes.map Code.width).sum + 1 := by
    rw [← length_bits, h, List.length_append, List.length_singleton, length_bits]
  have hlen := length_pack codes
  have hlen' := length_pack codes'
  by_cases h8 : (codes.map Code.width).sum % 8 = 0
  · refine .inr ⟨h8, eq_of_bitAt_eq ?_ fun i => (hbits i).trans (bitAt_concat_zero _ i).symm⟩
    rw [List.length_append, List.length_singleton]
    omega
  · exact .inl (eq_of_bitAt_eq (by omega) hbits)

/-- Settles O40: the two settings differ only in the width of EOI, whose value fits the narrower one. -/
theorem finalGrowthAddsAtMostOneZeroByte : Obligations.FinalGrowthAddsAtMostOneZeroByte := by
  unfold Obligations.FinalGrowthAddsAtMostOneZeroByte
  intro d p sym codes h
  obtain ⟨z, c, hend, rfl⟩ := lzwCodes_eq_ok.mp h
  have hgrown := (lzwCodes_eq_ok (d := { d with finalGrowth := true })).mpr ⟨z, c, hend, rfl⟩
  refine ⟨_, hgrown, by simp, ?_⟩
  rw [show eoiWidth false z = z.w from rfl]
  rcases eoiWidth_cases true z with he | ⟨-, he⟩ <;> rw [he]
  · exact .inl rfl
  · have heoi : eoiCode p < 2 ^ z.w :=
      calc eoiCode p < seedSize p := eoiCode_lt_seedSize p
        _ ≤ 2 ^ startWidth p := seedSize_le_two_pow p
        _ ≤ 2 ^ z.w := Nat.pow_le_pow_right Nat.two_pos hend.wide.le_width
    exact pack_of_one_zero_bit (by simp [Code.bits_widened heoi])

end Sys2Proof.Machine

/-! ## The two kinds of dictionary key (41_lzw.md R205, R227) -/

namespace Sys2Proof.Machine

/-- The HASH32 key of a sequence that is an EXACT key (41_lzw.md R205). -/
def hashKey : Key → Key
  | .hash h => .hash h
  | .sequence q => .hash (hashFrom hashInitial q)

/-- The state of the HASH32 run that goes beside an EXACT run. -/
def Lzw.hashed (z : Lzw) : Lzw := { z with dict := z.dict.map (Prod.map hashKey id), cur := hashKey z.cur }

theorem hashKey_keyext (q : List Nat) (x : Nat) :
    hashKey (keyext (.sequence q) x) = keyext (hashKey (.sequence q)) x := by
  simp [hashKey, keyext, hashFrom]

theorem hashKey_key1 (x : Nat) : hashKey (key1 .exactSeq x) = key1 .hash32 x := rfl

theorem seedDict_hashed (p : PaletteSize) :
    (seedDict .exactSeq p).map (Prod.map hashKey id) = seedDict .hash32 p := by
  simp only [seedDict, List.map_map]
  rfl

theorem Lzw.start_hashed (p : PaletteSize) (x : Nat) :
    (Lzw.start .exactSeq p x).hashed = Lzw.start .hash32 p x := by
  simp only [Lzw.hashed, Lzw.start, seedDict_hashed, hashKey_key1]

theorem Lzw.restarted_hashed (p : PaletteSize) (z : Lzw) (x c : Nat) :
    (z.restarted .exactSeq p x c).hashed = z.hashed.restarted .hash32 p x c := by
  simp only [Lzw.restarted, ← Lzw.start_hashed]
  rfl

theorem Lzw.registered_hashed (z : Lzw) (x : Nat) (ext : Key) (c : Nat) :
    (z.registered .exactSeq x ext c).hashed = z.hashed.registered .hash32 x (hashKey ext) c := rfl

/-- A miss whose match has a code starts the table anew when it is full, else registers (41_lzw.md R208, R211). -/
theorem Lzw.miss_eq_ok {m : DictKey} {p : PaletteSize} {z : Lzw} {x c : Nat} {ext : Key}
    (h : codeOf ((ext, z.size) :: z.dict) z.cur = .ok c) :
    z.miss m p x ext = .ok (if z.size + 1 = maxTable then z.restarted m p x c else z.registered m x ext c) := by
  rcases Lzw.miss_of_codeOf (m := m) (p := p) (x := x) h with ⟨hfull, he⟩ | ⟨hfull, he⟩
  · rw [he, if_pos hfull]
  · rw [he, if_neg hfull]

/-- Without a collision, lookups with hashed keys find what lookups with exact keys find. -/
theorem dictFind_hashed {S : Set Key} (hinj : Set.InjOn hashKey S) {d : Dict} {k : Key} (hk : k ∈ S)
    (hd : ∀ j ∈ d.map Prod.fst, j ∈ S) : dictFind (d.map (Prod.map hashKey id)) (hashKey k) = dictFind d k := by
  induction d with
  | nil => rfl
  | cons e d ih =>
    obtain ⟨j, c⟩ := e
    obtain ⟨hj, hd⟩ := List.forall_mem_cons.mp hd
    simp only [List.map_cons, Prod.map_apply, id_eq, dictFind, ih hd, hinj.eq_iff hj hk]

theorem codeOf_hashed {S : Set Key} (hinj : Set.InjOn hashKey S) {d : Dict} {k : Key} (hk : k ∈ S)
    (hd : ∀ j ∈ d.map Prod.fst, j ∈ S) : codeOf (d.map (Prod.map hashKey id)) (hashKey k) = codeOf d k := by
  rw [codeOf, dictFind_hashed hinj hk hd]
  rfl

/-- The exact keys a run over `sym` can look up or seed: its non-empty contiguous parts and the palette symbols. -/
def relevantKeys (p : PaletteSize) (sym : List Nat) : Set Key :=
  {k | ∃ u, k = .sequence u ∧ u ≠ [] ∧ (u <:+: sym ∨ ∃ i, i < p.toNat ∧ u = [i])}

/-- An EXACT run that has read the symbols `done` of `sym`: its match is the end of them, and its keys are relevant. -/
structure Lzw.Within (p : PaletteSize) (sym done : List Nat) (z : Lzw) : Prop where
  cur : ∃ q, z.cur = .sequence q ∧ q ≠ [] ∧ q <:+ done
  keys : ∀ k ∈ z.dict.map Prod.fst, k ∈ relevantKeys p sym

section Simulation

variable {p : PaletteSize} {sym done : List Nat} {z z' : Lzw} {x : Nat}

theorem mem_relevantKeys {q : List Nat} (hq : q ≠ []) (h : q <:+: sym) : .sequence q ∈ relevantKeys p sym :=
  ⟨q, rfl, hq, .inl h⟩

theorem seedDict_relevant : ∀ k ∈ (seedDict .exactSeq p).map Prod.fst, k ∈ relevantKeys p sym := by
  intro k hk
  simp only [seedDict, List.map_map, List.mem_map, List.mem_range] at hk
  obtain ⟨i, hi, rfl⟩ := hk
  exact ⟨[i], rfl, List.cons_ne_nil _ _, .inr ⟨i, hi, rfl⟩⟩

theorem Lzw.within_start : (Lzw.start .exactSeq p x).Within p sym [x] :=
  ⟨⟨[x], rfl, List.cons_ne_nil _ _, List.suffix_refl _⟩, seedDict_relevant⟩

theorem Lzw.Within.cur_mem (h : z.Within p sym done) (hdone : done <+: sym) : z.cur ∈ relevantKeys p sym := by
  obtain ⟨⟨q, hcur, hq, hsuf⟩, -⟩ := h
  exact hcur ▸ mem_relevantKeys hq (hsuf.isInfix.trans hdone.isInfix)

/-- The next match, should the symbol extend this one. -/
theorem Lzw.Within.ext (h : z.Within p sym done) (x : Nat) :
    ∃ q, keyext z.cur x = .sequence q ∧ q ≠ [] ∧ q <:+ done ++ [x] := by
  obtain ⟨⟨q, hcur, -, t, rfl⟩, -⟩ := h
  exact ⟨q ++ [x], by rw [hcur, keyext], by simp, t, (List.append_assoc t q [x]).symm⟩

theorem Lzw.Within.ext_mem (h : z.Within p sym done) (hdone : done ++ [x] <+: sym) :
    keyext z.cur x ∈ relevantKeys p sym := by
  obtain ⟨q, hext, hq, hsuf⟩ := h.ext x
  exact hext ▸ mem_relevantKeys hq (hsuf.isInfix.trans hdone.isInfix)

theorem Lzw.Within.hashKey_ext (h : z.Within p sym done) (x : Nat) :
    hashKey (keyext z.cur x) = keyext (hashKey z.cur) x := by
  obtain ⟨⟨q, hcur, -⟩, -⟩ := h
  rw [hcur, hashKey_keyext]

theorem Lzw.Within.feed (h : z.Within p sym done) (hdone : done ++ [x] <+: sym)
    (hf : z.feed .exactSeq p x = .ok z') : z'.Within p sym (done ++ [x]) := by
  have hlast : ∃ q, key1 .exactSeq x = .sequence q ∧ q ≠ [] ∧ q <:+ done ++ [x] :=
    ⟨[x], rfl, List.cons_ne_nil _ _, List.suffix_append _ _⟩
  rcases Lzw.feed_eq_ok hf with ⟨-, rfl⟩ | ⟨-, c, -, rfl | rfl⟩
  · exact ⟨h.ext x, h.keys⟩
  · exact ⟨hlast, seedDict_relevant⟩
  · exact ⟨hlast, List.forall_mem_cons.mpr ⟨h.ext_mem hdone, h.keys⟩⟩

variable (hinj : Set.InjOn hashKey (relevantKeys p sym))

include hinj

/-- A miss with hashed keys is the hashed miss. -/
theorem Lzw.Within.miss_hashed (h : z.Within p sym done) (hdone : done ++ [x] <+: sym) :
    z.hashed.miss .hash32 p x (hashKey (keyext z.cur x)) =
      (z.miss .exactSeq p x (keyext z.cur x)).map Lzw.hashed := by
  have hcode : codeOf ((hashKey (keyext z.cur x), z.hashed.size) :: z.hashed.dict) z.hashed.cur =
      codeOf ((keyext z.cur x, z.size) :: z.dict) z.cur :=
    codeOf_hashed (d := (keyext z.cur x, z.size) :: z.dict) hinj (h.cur_mem ((List.prefix_append done [x]).trans hdone))
      (List.forall_mem_cons.mpr ⟨h.ext_mem hdone, h.keys⟩)
  cases hc : codeOf ((keyext z.cur x, z.size) :: z.dict) z.cur with
  | error e => simp [Lzw.miss, hcode, hc, Except.map]
  | ok c =>
    rw [Lzw.miss_eq_ok (hcode.trans hc), Lzw.miss_eq_ok hc, Except.map, apply_ite Lzw.hashed, Lzw.restarted_hashed,
      Lzw.registered_hashed]
    rfl

/-- A symbol with hashed keys does what it does with exact keys. -/
theorem Lzw.Within.feed_hashed (h : z.Within p sym done) (hdone : done ++ [x] <+: sym) :
    z.hashed.feed .hash32 p x = (z.feed .exactSeq p x).map Lzw.hashed := by
  have hfind := dictFind_hashed hinj (h.ext_mem hdone) h.keys
  rw [Lzw.feed, Lzw.feed, show z.hashed.cur = hashKey z.cur from rfl, ← h.hashKey_ext x,
    show z.hashed.dict = z.dict.map (Prod.map hashKey id) from rfl, hfind]
  cases dictFind z.dict (keyext z.cur x) with
  | none => exact h.miss_hashed hinj hdone
  | some c => rfl

/-- The two runs go through the same symbols side by side. -/
theorem Lzw.Within.feedAll_hashed (xs : List Nat) : ∀ {done : List Nat} {z : Lzw}, z.Within p sym done →
    done ++ xs = sym →
    z.hashed.feedAll .hash32 p xs = (z.feedAll .exactSeq p xs).map Lzw.hashed ∧
      ∀ z', z.feedAll .exactSeq p xs = .ok z' → z'.Within p sym sym := by
  induction xs with
  | nil =>
    intro done z h hsym
    rw [List.append_nil] at hsym
    subst hsym
    refine ⟨rfl, fun z' hz' => ?_⟩
    cases hz'
    exact h
  | cons x xs ih =>
    intro done z h hsym
    have hsym' : done ++ [x] ++ xs = sym := by rw [List.append_assoc]; exact hsym
    have hdone : done ++ [x] <+: sym := ⟨xs, hsym'⟩
    have hfeed := h.feed_hashed hinj hdone
    cases hz : z.feed .exactSeq p x with
    | error e =>
      rw [hz] at hfeed
      simp [Lzw.feedAll, hz, hfeed, Except.map]
    | ok z1 =>
      rw [hz] at hfeed
      rw [Lzw.feedAll_cons hz, Lzw.feedAll_cons hfeed]
      exact ih (h.feed hdone hz) hsym'

theorem Lzw.Within.close_hashed (h : z.Within p sym sym) (growth : Bool) :
    z.hashed.close growth p = z.close growth p := by
  rw [Lzw.close, show codeOf z.hashed.dict z.hashed.cur = codeOf z.dict z.cur from
    codeOf_hashed hinj (h.cur_mem (List.prefix_refl sym)) h.keys]
  rfl

end Simulation

/-- Settles O39: the HASH32 run goes beside the EXACT run, symbol by symbol. -/
theorem hashKeysAgreeWithExactKeys : Obligations.HashKeysAgreeWithExactKeys := by
  unfold Obligations.HashKeysAgreeWithExactKeys
  intro d p sym hhash
  have hinj : Set.InjOn hashKey (relevantKeys p sym) := by
    rintro _ ⟨u, rfl, hu, hup⟩ _ ⟨v, rfl, hv, hvp⟩ heq
    rw [hhash u v hu hv hup hvp (Key.hash.inj heq)]
  cases sym with
  | nil => rfl
  | cons s0 rest =>
    obtain ⟨hrun, hend⟩ := (Lzw.within_start (x := s0)).feedAll_hashed hinj rest rfl
    rw [Lzw.start_hashed] at hrun
    rw [lzwCodes, lzwCodes, hrun]
    cases hz : (Lzw.start .exactSeq p s0).feedAll .exactSeq p rest with
    | error e => rfl
    | ok z => exact (hend z hz).close_hashed hinj d.finalGrowth

end Sys2Proof.Machine

/-! ## LZW_ENCODE (41_lzw.md R230) -/

namespace Sys2Proof.Machine

theorem PaletteSize.exists_ofReg {r : BitVec 5} (h : r.toNat ∈ [4, 8, 16]) : ∃ p, PaletteSize.ofReg r = some p :=
  Option.ne_none_iff_exists'.mp fun hnone => PaletteSize.ofReg_eq_none.mp hnone h

section LzwEncode

variable {s : State} {p : PaletteSize}

theorem exec_lzwEncode (hp : s.phase = .idle) : exec .lzwEncode s = .next (lzwEncodeBody s) :=
  exec_of_allowed (by rw [hp]; rfl)

/-- The symbols of LZW_ENCODE are the numbers in IN[0..ARG0-1]. -/
theorem State.symbols_eq (s : State) : s.symbols = (List.range s.arg0.toNat).map fun i => (s.inWord i).toNat := by
  simp [State.symbols, State.inWords]

/-- With its operands accepted, LZW_ENCODE runs the compressor. -/
theorem exec_lzwEncode_of_operands (hp : s.phase = .idle) (hps : s.psize.toNat = p.toNat) (h0 : s.arg0.toNat ≠ 0)
    (hn : s.arg0.toNat ≤ s.dev.inWords) : exec .lzwEncode s = .next (lzwEncodeRun s p) := by
  rw [exec_lzwEncode hp, lzwEncodeBody, PaletteSize.ofReg_eq_some.mpr hps]
  dsimp only
  rw [if_neg h0, if_neg (Nat.not_lt.mpr hn)]

/-- A stream that fits OUT replaces it. -/
theorem lzwEncodeRun_ok {bytes : List Byte} (hd : s.dev.wf = true) (h : lzwStream s.dev p s.symbols = .ok bytes)
    (hfits : bytes.length ≤ s.dev.outBytes) : ∃ b : OutBuf, b.Holds bytes ∧ lzwEncodeRun s p = s.setOut b := by
  obtain ⟨b, hb, hholds, -⟩ := outAppendAll_ok (Params.outBytes_lt hd) bytes s.out.holds_clear (by simpa using hfits)
  exact ⟨b, hholds, by simp only [lzwEncodeRun, h, hb]⟩

theorem lzwEncodeRun_overflow {bytes : List Byte} (hd : s.dev.wf = true)
    (h : lzwStream s.dev p s.symbols = .ok bytes) (hover : s.dev.outBytes < bytes.length) :
    lzwEncodeRun s p = raiseRunningFault .outOverflow s := by
  have happend := outAppendAll_overflow (Params.outBytes_lt hd) bytes s.out.holds_clear (Nat.zero_le _)
    (by simpa using hover)
  simp only [lzwEncodeRun, h, happend]

theorem lzwEncodeRun_error {e : FaultCode} (h : lzwCodes s.dev p s.symbols = .error e) :
    lzwEncodeRun s p = raiseRunningFault e s := by
  simp only [lzwEncodeRun, lzwStream, h]

end LzwEncode

/-- Settles O42. -/
theorem lzwEncodeReplacesOutByTheStream : Obligations.LzwEncodeReplacesOutByTheStream := by
  unfold Obligations.LzwEncodeReplacesOutByTheStream
  intro s p bytes hd hp hps h0 hn hstream hfits
  rw [← State.symbols_eq] at hstream
  obtain ⟨b, hb, hrun⟩ := lzwEncodeRun_ok hd hstream hfits
  exact ⟨s.setOut b, hrun ▸ exec_lzwEncode_of_operands hp hps h0 hn, rfl, hb.2, outBytes_of_holds hb hfits⟩

/-- Settles O43. -/
theorem lzwEncodeFaultsInOrder : Obligations.LzwEncodeFaultsInOrder := by
  unfold Obligations.LzwEncodeFaultsInOrder
  intro s hp
  have hbody := exec_lzwEncode hp
  refine ⟨fun hps => ?_, fun hps h0 => ?_, fun hps hn => ?_, fun p hps h0 hn => ?_⟩
  · rw [hbody, lzwEncodeBody, PaletteSize.ofReg_eq_none.mpr hps]
    rfl
  · obtain ⟨p, hof⟩ := PaletteSize.exists_ofReg hps
    rw [hbody, lzwEncodeBody, hof]
    dsimp only
    rw [if_pos h0]
    rfl
  · obtain ⟨p, hof⟩ := PaletteSize.exists_ofReg hps
    rw [hbody, lzwEncodeBody, hof]
    dsimp only
    rw [if_neg (Nat.ne_zero_of_lt hn), if_pos hn]
    rfl
  · have hrun := exec_lzwEncode_of_operands hp hps h0 hn
    rw [← State.symbols_eq]
    exact ⟨fun he => ⟨_, hrun.trans (congrArg _ (lzwEncodeRun_error he))⟩,
      fun bytes hstream hover hd => ⟨_, hrun.trans (congrArg _ (lzwEncodeRun_overflow hd hstream hover))⟩⟩

/-- Settles O44. -/
theorem lzwEncodeCompletesOnPaletteSymbols : Obligations.LzwEncodeCompletesOnPaletteSymbols := by
  unfold Obligations.LzwEncodeCompletesOnPaletteSymbols
  intro s p hd hp hps h0 hn hin hroom
  have hsym : ∀ x ∈ s.symbols, x < p.toNat := by simpa [State.symbols_eq] using hin
  obtain ⟨bytes, hstream, hlen⟩ := lzwStream_of_palette s.dev (State.symbols_ne_nil h0) hsym
  have hcount : s.symbols.length = s.arg0.toNat := by simp [State.symbols_eq]
  rw [hcount] at hlen
  rw [State.symbols_eq] at hstream
  have hfits : bytes.length ≤ s.dev.outBytes := hlen.trans hroom
  obtain ⟨t, ht, hframe, -, hout⟩ := lzwEncodeReplacesOutByTheStream s p bytes hd hp hps h0 hn hstream hfits
  exact ⟨t, ht, hframe, by rw [hout, hstream]⟩

end Sys2Proof.Machine

/-! # Hash family: the rolling hash and its three commands -/

/-! ## The rolling hash (42_hasher.md R250 to R256) -/

namespace Sys2Proof.Machine

/-- 42_hasher.md R252 in the natural numbers. -/
theorem toNat_extend (h : Word) (x : Nat) : (extend h x).toNat = (h.toNat * 31 + x) % 2 ^ 32 := by
  simp [extend, hashItem, hashMult, Nat.add_mod]

/-- Incremental and whole-sequence hashing agree (42_hasher.md R255). -/
@[simp] theorem hashFrom_concat (seed : Word) (xs : List Nat) (x : Nat) :
    hashFrom seed (xs ++ [x]) = extend (hashFrom seed xs) x := by
  simp [hashFrom]

/-- The fold over words is the fold over numbers. -/
theorem toNat_hashFrom (seed : Word) (xs : List Nat) :
    (hashFrom seed xs).toNat = xs.foldl (fun h x => (h * 31 + x) % 2 ^ 32) seed.toNat :=
  (List.foldl_hom BitVec.toNat fun h x => (toNat_extend h x).symm).symm

/-- The base-31 digits, lowest first, of the hash of `xs` before reduction: `xs` from last to first, then the seed,
which is 15 * 31 + 22. -/
def hashDigits (xs : List Nat) : List Nat := xs.reverse ++ [22, 15]

theorem hashDigits_concat (xs : List Nat) (x : Nat) : hashDigits (xs ++ [x]) = x :: hashDigits xs := by
  simp [hashDigits]

@[simp] theorem length_hashDigits (xs : List Nat) : (hashDigits xs).length = xs.length + 2 := by simp [hashDigits]

theorem hashDigits_lt {xs : List Nat} (h : ∀ x ∈ xs, x < 31) : ∀ y ∈ hashDigits xs, y < 31 := by
  simp only [hashDigits, List.mem_append, List.mem_reverse]
  rintro y (hy | hy)
  · exact h y hy
  · revert y
    decide

theorem hashDigits_injective : Function.Injective hashDigits := fun _ _ h =>
  List.reverse_injective (List.append_cancel_right h)

/-- HASH is the unbounded hash of R256, reduced mod 2^32. -/
theorem toNat_hashFrom_initial (xs : List Nat) :
    (hashFrom hashInitial xs).toNat = Nat.ofDigits 31 (hashDigits xs) % 2 ^ 32 := by
  induction xs using List.reverseRecOn with
  | nil => decide
  | append_singleton xs x ih =>
    rw [hashFrom_concat, toNat_extend, ih, hashDigits_concat, Nat.ofDigits_cons]
    omega

/-- The unbounded hash is one-to-one on sequences of symbols below 31 (42_hasher.md R256). -/
theorem ofDigits_hashDigits_inj {u v : List Nat} (hu : ∀ x ∈ u, x < 31) (hv : ∀ x ∈ v, x < 31)
    (h : Nat.ofDigits 31 (hashDigits u) = Nat.ofDigits 31 (hashDigits v)) : u = v := by
  have digits_eq {xs : List Nat} (hxs : ∀ x ∈ xs, x < 31) :
      Nat.digits 31 (Nat.ofDigits 31 (hashDigits xs)) = hashDigits xs :=
    Nat.digits_ofDigits 31 (by decide) _ (hashDigits_lt hxs) fun _ => by simp [hashDigits]
  apply hashDigits_injective
  rw [← digits_eq hu, h, digits_eq hv]

/-- The unbounded hash of at most four symbols below 31 is a 32-bit number (42_hasher.md R256). -/
theorem ofDigits_hashDigits_lt {xs : List Nat} (hxs : ∀ x ∈ xs, x < 31) (hlen : xs.length ≤ 4) :
    Nat.ofDigits 31 (hashDigits xs) < 2 ^ 32 :=
  calc Nat.ofDigits 31 (hashDigits xs) < 31 ^ (hashDigits xs).length :=
        Nat.ofDigits_lt_base_pow_length (by decide) (hashDigits_lt hxs)
    _ ≤ 31 ^ 6 := Nat.pow_le_pow_right (by decide) (by simpa using hlen)
    _ < 2 ^ 32 := by decide

/-- Settles O30: four symbols below 31 do not wrap, and the unbounded hash is a base-31 numeral. -/
theorem shortSequencesHashApart : Obligations.ShortSequencesHashApart := by
  unfold Obligations.ShortSequencesHashApart
  intro u v hu hv hulen hvlen h
  have hmod := congrArg BitVec.toNat h
  rw [toNat_hashFrom_initial, toNat_hashFrom_initial, Nat.mod_eq_of_lt (ofDigits_hashDigits_lt hu hulen),
    Nat.mod_eq_of_lt (ofDigits_hashDigits_lt hv hvlen)] at hmod
  exact ofDigits_hashDigits_inj hu hv hmod

end Sys2Proof.Machine

/-! ## The hash commands (42_hasher.md R260 to R263) -/

namespace Sys2Proof.Machine

section HashCommands

variable {s t : State} {i : Instr}

theorem allowed_hashCommand {p : Phase} (hi : i = .hashInit ∨ i = .hashExtend ∨ i = .hashSeq) :
    allowed i p = true ↔ p ≠ .fault := by
  rcases hi with rfl | rfl | rfl <;> cases p <;> decide

/-- Outside FAULT a hash command runs (30_encoding.md R118). -/
theorem exec_hashCommand (hi : i = .hashInit ∨ i = .hashExtend ∨ i = .hashSeq) (hp : s.phase ≠ .fault) :
    exec i s = .next (effect i s) :=
  exec_of_allowed ((allowed_hashCommand hi).mpr hp)

theorem exec_hashInit (hp : s.phase ≠ .fault) : exec .hashInit s = .next (s.setHash hashInitial) :=
  exec_hashCommand (.inl rfl) hp

theorem exec_hashExtend (hp : s.phase ≠ .fault) : exec .hashExtend s = .next (s.setHash (extend s.hash s.arg0Nat)) :=
  exec_hashCommand (.inr (.inl rfl)) hp

theorem exec_hashSeq (hp : s.phase ≠ .fault) : exec .hashSeq s = .next (hashSeqBody s) :=
  exec_hashCommand (.inr (.inr rfl)) hp

theorem hashSeqBody_of_le (hn : s.arg0Nat ≤ s.dev.inWords) : hashSeqBody s = s.setHash (hashFrom s.hash s.symbols) :=
  if_neg (Nat.not_lt.mpr hn)

theorem hashSeqBody_of_lt (hn : s.dev.inWords < s.arg0Nat) : hashSeqBody s = raiseFault .inRange s := if_pos hn

/-- What a hash command can do in any state. -/
theorem exec_hashCommand_cases (hi : i = .hashInit ∨ i = .hashExtend ∨ i = .hashSeq) (h : exec i s = .next t) :
    (∃ v, t = s.setHash v) ∨ t = raiseFault .inRange s := by
  rcases exec_cases h with ⟨-, rfl⟩ | ⟨-, -, rfl⟩ | ⟨ha, hp, -⟩
  · rcases hi with rfl | rfl | rfl
    · exact .inl ⟨_, rfl⟩
    · exact .inl ⟨_, rfl⟩
    · rcases hashSeqBody_cases s with ⟨-, he⟩ | ⟨-, he⟩
      · exact .inr he
      · exact .inl ⟨_, he⟩
  · exact .inl ⟨t.hash, rfl⟩
  · exact absurd ((allowed_hashCommand hi).mpr hp) (by simp [ha])

/-- The states that HASH_EXTEND commands on IN[0], IN[1], ... lead to: HASH is the hash of the items so far, and ARG0
is the only other field written. -/
theorem hash_of_repeated_hashExtend {u : Nat → State} (hp : s.phase ≠ .fault) (h0 : u 0 = s) {n : Nat}
    (hu : ∀ k, k < n → exec .hashExtend { u k with arg0 := s.inWord k } = .next (u (k + 1))) :
    ∀ k, k ≤ n → ∃ a, u k = { s with
      arg0 := a, hash := hashFrom s.hash ((List.range k).map fun j => (s.inWord j).toNat) }
  | 0, _ => ⟨s.arg0, h0⟩
  | k + 1, hk => by
    obtain ⟨a, ha⟩ := hash_of_repeated_hashExtend hp h0 hu k (Nat.le_of_succ_le hk)
    have hphase : (u k).phase ≠ .fault := by rwa [ha]
    have hstep := Host.Outcome.next.inj ((hu k hk).symm.trans (exec_hashExtend hphase))
    refine ⟨s.inWord k, ?_⟩
    rw [hstep, ha, List.range_succ, List.map_append, List.map_singleton, hashFrom_concat]
    rfl

end HashCommands

/-- Settles O26. -/
theorem hashInitSetsTheSeed : Obligations.HashInitSetsTheSeed := by
  unfold Obligations.HashInitSetsTheSeed
  intro s hp
  exact ⟨exec_hashInit hp, runCommand_of_decode (decode_encode .hashInit) s⟩

/-- Settles O27. -/
theorem hashExtendMultipliesAndAdds : Obligations.HashExtendMultipliesAndAdds := by
  unfold Obligations.HashExtendMultipliesAndAdds
  intro s hp
  refine ⟨?_, runCommand_of_decode (decode_encode .hashExtend) s⟩
  rw [exec_hashExtend hp, ← toNat_extend, BitVec.ofNat_toNat, BitVec.setWidth_eq]
  rfl

/-- Settles O28. -/
theorem hashSeqFoldsTheInWords : Obligations.HashSeqFoldsTheInWords := by
  unfold Obligations.HashSeqFoldsTheInWords
  intro s hp
  refine ⟨fun hn => ?_, fun hn => ?_⟩
  · rw [exec_hashSeq hp, hashSeqBody_of_lt hn]
    rfl
  · have hfold := toNat_hashFrom s.hash s.symbols
    rw [State.symbols_eq, List.foldl_map] at hfold
    rw [exec_hashSeq hp, hashSeqBody_of_le hn, State.symbols_eq, ← hfold, BitVec.ofNat_toNat, BitVec.setWidth_eq]
    rfl

/-- Settles O29, by induction on the number of items. -/
theorem hashSeqEqualsRepeatedHashExtend : Obligations.HashSeqEqualsRepeatedHashExtend := by
  unfold Obligations.HashSeqEqualsRepeatedHashExtend
  intro s u hp hn h0 hu
  obtain ⟨a, ha⟩ := hash_of_repeated_hashExtend hp h0 hu _ (Nat.le_refl _)
  rw [exec_hashSeq hp, hashSeqBody_of_le hn, State.symbols_eq, ha]
  rfl

/-- Settles O31. -/
theorem hashCommandsLeaveTheContainerAlone : Obligations.HashCommandsLeaveTheContainerAlone := by
  unfold Obligations.HashCommandsLeaveTheContainerAlone
  intro i s t hi h
  rcases exec_hashCommand_cases hi h with ⟨v, rfl⟩ | rfl
  · exact ⟨.inl rfl, rfl, rfl, rfl, fun _ => rfl⟩
  · exact ⟨.inr rfl, rfl, rfl, rfl, fun _ => rfl⟩

end Sys2Proof.Machine

/-! ## The system commands (43_system.md R270, R271) and the reset column of the register map (10_state.md R31) -/

namespace Sys2Proof.Machine

/-- SOFT_RESET is allowed in every state (30_encoding.md R118), so it always resets. -/
theorem exec_softReset (s : State) : exec .softReset s = .next (doReset s) := exec_of_allowed rfl

theorem hostEvent_reset (s : State) : hostEvent .reset s = .next (doReset s) := rfl

/-- NOP's two ways to change nothing: its own rule where it is allowed, and in FAULT being ignored. -/
theorem exec_nop (s : State) : exec .nop s = .next s := by
  by_cases hp : s.phase = .fault
  · exact exec_of_fault hp Instr.noConfusion
  · have ha : allowed .nop s.phase = true := by
      cases h : s.phase with
      | fault => exact absurd h hp
      | idle | accumulating | finalized => rfl
    exact exec_of_allowed ha

/-- The reset column of 10_state.md R31; the capability registers show the device. -/
def resetWord (d : Params) : Reg → Word
  | .id => 0x4C5A5737
  | .scale => 1
  | .psize => 16
  | .hash => 487
  | .capIn => BitVec.ofNat 32 d.inWords
  | .capOut => BitVec.ofNat 32 d.outBytes
  | .capFrames => BitVec.ofNat 32 d.maxFrames
  | .params => paramsWord d
  | .status | .cmd | .arg0 | .arg1 | .width | .height | .quantum => 0
  | .outlen | .nframes | .rectXY | .rectWH | .pal _ => 0

/-- STATUS of an idle block with no fault and no empty rectangle (10_state.md R33, R34). -/
theorem status_eq_zero {s : State} (hphase : s.phase = .idle) (hrect : s.rectEmpty = false)
    (hfault : s.faultCode = .noFault) : s.status = 0 := by
  rw [State.status, hphase, hrect, hfault]
  decide

/-- After a reset the register file reads as its reset column (70_reset_and_hazards.md R320). -/
theorem readReg_resetWith (d : Params) (script : List HostEvent) (readData : List Word) (inEpoch outEpoch : Nat)
    (r : Reg) : readReg (State.resetWith d script readData inEpoch outEpoch) r = resetWord d r := by
  cases r with
  | pal i => exact Vector.getElem_replicate i.isLt
  | status => exact status_eq_zero rfl rfl rfl
  | _ => rfl

theorem readReg_doReset (s : State) (r : Reg) : readReg (doReset s) r = resetWord s.dev r := readReg_resetWith ..

/-- Settles O25. -/
theorem nopChangesNothing : Obligations.NopChangesNothing := by
  unfold Obligations.NopChangesNothing
  intro s
  exact ⟨exec_nop s, runCommand_of_decode (decode_encode .nop) s⟩

/-- Settles O17: both resets are `doReset`, and the register file then reads as the reset column. -/
theorem bothResetsLeaveTheResetRegisters : Obligations.BothResetsLeaveTheResetRegisters := by
  unfold Obligations.BothResetsLeaveTheResetRegisters
  intro s
  refine ⟨doReset s, exec_softReset s, hostEvent_reset s, ?_⟩
  simp [readReg_doReset, resetWord]

end Sys2Proof.Machine

/-! # Exceptions family: how commands end, the edges of the state machine, and what a fault leaves unchanged -/

/-! ## How a command ends (60_exceptions.md R290 to R295) -/

namespace Sys2Proof.Machine

/-- The ways in which command `i`, issued in `s`, can end, as far as STATE, FAULT_CODE and the frame of a fault go. -/
inductive CommandEnds (i : Instr) (s : State) : State → Prop
  /-- SOFT_RESET (R294). -/
  | resets (hi : i = .softReset) : CommandEnds i s (doReset s)
  /-- The command completes, or FAULT ignores it (R295). -/
  | keepsPhase {t : State} (h : t.phase = s.phase) : CommandEnds i s t
  /-- CONFIGURE has started a session. -/
  | configures {t : State} (hs : s.phase = .idle) (ht : t.phase = .accumulating) : CommandEnds i s t
  /-- FINISH has closed the stream. -/
  | finalizes {t : State} (hs : s.phase = .accumulating) (ht : t.phase = .finalized) : CommandEnds i s t
  /-- A fault found by the permission check or by an operand check (R293 (a)). -/
  | faults {c : FaultCode} (hc : c ≠ .noFault) : CommandEnds i s (raiseFault c s)
  /-- A fault raised while the command runs (R293 (b)). Outside the invariant its code can also be EMPTY_INPUT. -/
  | faultsRunning {c : FaultCode} (hc : s.Inv → c.isRunning) : CommandEnds i s (raiseRunningFault c s)
  /-- CONFIGURE's OUT_OVERFLOW, which comes after the latching (R293 (b)). -/
  | faultsLatched (hi : i = .configure) (hs : s.phase = .idle) (c : Session) :
      CommandEnds i s (raiseRunningFault .outOverflow (s.setSession c))

theorem State.Inv.finishOut_error_isRunning {s : State} (h : s.Inv) (hp : s.phase = .accumulating) {e : FaultCode}
    (he : finishOut s = .error e) : e.isRunning :=
  (finishOut_runsTo h.outBytes_lt (h.session_pos hp) (h.out_fits (by simp [hp]))).error he

/-- In IDLE the frame store is empty already, so latching a session changes nothing else. -/
theorem State.Inv.setSession_eq_withSession {s : State} (h : s.Inv) (hp : s.phase = .idle) (c : Session) :
    s.setSession c = s.withSession c := by
  obtain ⟨-, -, -, -, -, ⟨-, hempty, -⟩, -⟩ := h
  rw [State.setSession, State.withSession, hempty hp]

section CommandEnds

variable {s t : State}

theorem configureBody_ends (hp : s.phase = .idle) : CommandEnds .configure s (configureBody s) := by
  rcases configureBody_cases s with ⟨-, he⟩ | ⟨p, -, ⟨-, he⟩ | ⟨b, -, he⟩⟩ <;> rw [he]
  · exact .faults FaultCode.noConfusion
  · exact .faultsLatched rfl hp _
  · exact .configures hp rfl

theorem addFrameBody_ends (s : State) : CommandEnds .addFrame s (addFrameBody s) := by
  rcases addFrameBody_cases s with ⟨-, he⟩ | ⟨-, -, he⟩ | ⟨-, -, he⟩ <;> rw [he]
  · exact .faults FaultCode.noConfusion
  · exact .faults FaultCode.noConfusion
  · exact .keepsPhase rfl

theorem finishBody_ends (hp : s.phase = .accumulating) : CommandEnds .finish s (finishBody s) := by
  rcases finishBody_cases s with ⟨e, hf, he⟩ | ⟨b, -, he⟩ <;> rw [he]
  · exact .faultsRunning fun h => h.finishOut_error_isRunning hp hf
  · exact .finalizes hp rfl

theorem diffRectBody_ends (s : State) : CommandEnds .diffRect s (diffRectBody s) := by
  rcases diffRectBody_cases s with ⟨-, he⟩ | ⟨-, -, he⟩ <;> rw [he]
  · exact .faults FaultCode.noConfusion
  · rw [reportRect_frame]
    exact .keepsPhase rfl

theorem lzwEncodeRun_ends (hne : s.arg0Nat ≠ 0) (p : PaletteSize) :
    CommandEnds .lzwEncode s (lzwEncodeRun s p) := by
  rcases lzwEncodeRun_cases s p with ⟨f, hf, he⟩ | ⟨bytes, -, ⟨-, he⟩ | ⟨b, -, he⟩⟩ <;> rw [he]
  · exact .faultsRunning fun _ => .inl (lzwStream_error (State.symbols_ne_nil hne) hf)
  · exact .faultsRunning fun _ => .inr rfl
  · exact .keepsPhase rfl

theorem lzwEncodeBody_ends (s : State) : CommandEnds .lzwEncode s (lzwEncodeBody s) := by
  rcases lzwEncodeBody_cases s with ⟨-, he⟩ | ⟨p, -, ⟨-, he⟩ | ⟨-, -, he⟩ | ⟨hne, -, he⟩⟩ <;> rw [he]
  · exact .faults FaultCode.noConfusion
  · exact .faults FaultCode.noConfusion
  · exact .faults FaultCode.noConfusion
  · exact lzwEncodeRun_ends hne p

theorem hashSeqBody_ends (s : State) : CommandEnds .hashSeq s (hashSeqBody s) := by
  rcases hashSeqBody_cases s with ⟨-, he⟩ | ⟨-, he⟩ <;> rw [he]
  · exact .faults FaultCode.noConfusion
  · exact .keepsPhase rfl

theorem effect_ends {i : Instr} (ha : allowed i s.phase = true) : CommandEnds i s (effect i s) := by
  cases i with
  | nop | hashInit | hashExtend => exact .keepsPhase rfl
  | softReset => exact .resets rfl
  | configure => exact configureBody_ends (allowed_configure.mp ha)
  | addFrame => exact addFrameBody_ends s
  | finish => exact finishBody_ends (allowed_finish.mp ha)
  | diffRect => exact diffRectBody_ends s
  | lzwEncode => exact lzwEncodeBody_ends s
  | hashSeq => exact hashSeqBody_ends s

theorem exec_ends {i : Instr} (h : exec i s = .next t) : CommandEnds i s t := by
  rcases exec_cases h with ⟨ha, rfl⟩ | ⟨-, -, rfl⟩ | ⟨-, -, rfl⟩
  · exact effect_ends ha
  · exact .keepsPhase rfl
  · exact .faults FaultCode.noConfusion

end CommandEnds

theorem FaultCode.isRunning.ne_noFault {c : FaultCode} (h : c.isRunning) : c ≠ .noFault := by
  rcases h with rfl | rfl <;> exact FaultCode.noConfusion

/-- Settles O22: of the ways to end, three are faults; a latching one starts in IDLE, where no frame is lost. -/
theorem faultChangesOnlyStatusAndOut : Obligations.FaultChangesOnlyStatusAndOut := by
  unfold Obligations.FaultChangesOnlyStatusAndOut
  intro i s t hinv hp hexec ht
  cases exec_ends hexec with
  | resets => cases ht
  | keepsPhase h => exact absurd (h.symm.trans ht) hp
  | configures _ h => cases h.symm.trans ht
  | finalizes _ h => cases h.symm.trans ht
  | faults hc => exact ⟨hc, fun _ _ => rfl, rfl, fun _ => rfl⟩
  | faultsRunning hc =>
    refine ⟨(hc hinv).ne_noFault, fun hsym hout => ?_, rfl, fun _ => rfl⟩
    exact absurd (hc hinv) (not_or.mpr ⟨hsym, hout⟩)
  | faultsLatched hi hs c =>
    rw [hinv.setSession_eq_withSession hs]
    exact ⟨FaultCode.noConfusion, fun _ hout => absurd rfl hout, rfl, fun hne => absurd hi hne⟩

/-! ## Writes that are no command (60_exceptions.md R295) -/

theorem writeReg_keepsStatus (s : State) (v : Word) (r : Reg) :
    (writeReg s v r).phase = s.phase ∧ (writeReg s v r).faultCode = s.faultCode := by
  cases r <;> exact ⟨rfl, rfl⟩

theorem plainWrite_keepsStatus (s : State) (a v : Word) :
    (plainWrite s a v).phase = s.phase ∧ (plainWrite s a v).faultCode = s.faultCode := by
  rcases plainWrite_cases s a v with ⟨r, he⟩ | ⟨i, -, he⟩ | he <;> rw [he]
  · exact writeReg_keepsStatus s v r
  · exact ⟨rfl, rfl⟩
  · exact ⟨rfl, rfl⟩

/-- Only SOFT_RESET's own word decodes to SOFT_RESET. -/
theorem ne_softReset_of_decode {w : Word} {i : Instr} (hw : w ≠ encode .softReset) (h : decode w = .ok i) :
    i ≠ .softReset := by
  rintro rfl
  exact hw (decode_eq_ok_iff.mp h)

theorem runCommand_of_fault {s : State} (hp : s.phase = .fault) {w : Word} (hw : w ≠ encode .softReset) :
    runCommand w s = .next s := by
  rcases runCommand_cases w s with ⟨i, hi, he⟩ | ⟨r, -, he⟩ <;> rw [he]
  · exact exec_of_fault hp (ne_softReset_of_decode hw hi)
  · rw [illegalWord_of_fault hp]

/-- Settles O20. -/
theorem faultIgnoresEveryWordButSoftReset : Obligations.FaultIgnoresEveryWordButSoftReset := by
  unfold Obligations.FaultIgnoresEveryWordButSoftReset
  intro s w hp
  refine ⟨runCommand_of_fault hp, fun a ha => ?_⟩
  obtain ⟨hphase, hcode⟩ := plainWrite_keepsStatus s a w
  exact ⟨memWrite_of_ne_cmd ha s w, hphase.trans hp, hcode⟩

/-! ## The edges of the state machine (60_exceptions.md R294, 10_state.md R34) -/

/-- The edges along which STATE goes without a reset. -/
inductive Phase.Edge : Phase → Phase → Prop
  | stays (p : Phase) : Phase.Edge p p
  | configures : Phase.Edge .idle .accumulating
  | finalizes : Phase.Edge .accumulating .finalized
  | faults (p : Phase) : Phase.Edge p .fault

theorem Phase.Edge.of_eq {p q : Phase} (h : q = p) : Phase.Edge p q := h ▸ .stays q

/-- The edges, listed. -/
theorem Phase.Edge.mem {p q : Phase} (h : Phase.Edge p q) :
    (p, q) ∈
      [(.idle, .idle), (.idle, .accumulating), (.idle, .fault), (.accumulating, .accumulating),
        (.accumulating, .finalized), (.accumulating, .fault), (.finalized, .finalized), (.finalized, .fault),
        (Phase.fault, Phase.fault)] := by
  cases h with
  | stays | faults => cases p <;> decide
  | configures | finalizes => decide

theorem exec_edge {i : Instr} {s t : State} (hi : i ≠ .softReset) (h : exec i s = .next t) :
    Phase.Edge s.phase t.phase := by
  cases exec_ends h with
  | resets hr => exact absurd hr hi
  | keepsPhase h => exact .of_eq h
  | configures hs ht => rw [hs, ht]; exact .configures
  | finalizes hs ht => rw [hs, ht]; exact .finalizes
  | faults | faultsRunning | faultsLatched => exact .faults _

theorem illegalWord_edge (s : State) : Phase.Edge s.phase (illegalWord s).phase := by
  unfold illegalWord
  split
  · exact .stays _
  · exact .faults _

theorem runCommand_edge {w : Word} {s t : State} (hw : w ≠ encode .softReset) (h : runCommand w s = .next t) :
    Phase.Edge s.phase t.phase := by
  rcases runCommand_cases w s with ⟨i, hi, he⟩ | ⟨r, -, he⟩ <;> rw [he] at h
  · exact exec_edge (ne_softReset_of_decode hw hi) h
  · cases h
    exact illegalWord_edge s

/-- A transaction that resets the block: the reset input, or the CMD write of SOFT_RESET's word (R294). -/
def HostEvent.Resets (e : HostEvent) : Prop := e = .reset ∨ e = issueCommand .softReset

theorem HostEvent.resets_write {a v : Word} {n : Nat} :
    (HostEvent.write a n v).Resets ↔ accessOk a n = true ∧ a = Reg.addr .cmd ∧ v = encode .softReset := by
  simp only [HostEvent.Resets, issueCommand, writeTo, HostEvent.write.injEq, reduceCtorEq, false_or]
  constructor
  · rintro ⟨rfl, rfl, rfl⟩
    exact ⟨Reg.accessOk_addr .cmd, rfl, rfl⟩
  · rintro ⟨hok, ha, hv⟩
    exact ⟨ha, (accessOk_iff.mp hok).1, hv⟩

theorem resetsNext_iff {s : State} : s.resetsNext = true ↔ ∃ e es, s.script = e :: es ∧ e.Resets := by
  unfold State.resetsNext
  cases s.script with
  | nil => simp
  | cons e es =>
    have hhead : (∃ e' es', e :: es = e' :: es' ∧ e'.Resets) ↔ e.Resets := by simp
    rw [hhead]
    cases e with
    | reset => exact iff_of_true rfl (.inl rfl)
    | read a n => simp [HostEvent.Resets, issueCommand, writeTo]
    | write a n v =>
      simp only [HostEvent.resets_write, Bool.and_eq_true, beq_iff_eq, and_assoc]
      rfl

theorem hostEvent_of_resets {e : HostEvent} (h : e.Resets) (s : State) : hostEvent e s = .next (doReset s) := by
  rcases h with rfl | rfl
  · exact hostEvent_reset s
  · exact (hostEvent_issueCommand .softReset s).trans (exec_softReset s)

theorem hostEvent_edge {e : HostEvent} {s t : State} (hne : ¬ e.Resets) (h : hostEvent e s = .next t) :
    Phase.Edge s.phase t.phase := by
  rcases hostEvent_cases h with ⟨a, n, -, -, rfl⟩ | ⟨a, n, v, rfl, hok, ha, hr⟩ | ⟨a, n, v, -, -, -, rfl⟩ | ⟨rfl, -⟩
  · exact .stays _
  · exact runCommand_edge (fun hv => hne (HostEvent.resets_write.mpr ⟨hok, ha, hv⟩)) hr
  · exact .of_eq (plainWrite_keepsStatus s a v).1
  · exact absurd (.inl rfl) hne

/-- Settles O19. -/
theorem stateMachineFollowsItsEdges : Obligations.StateMachineFollowsItsEdges := by
  unfold Obligations.StateMachineFollowsItsEdges
  intro s t h
  split
  · rename_i hreset
    obtain ⟨e, es, hs, he⟩ := resetsNext_iff.mp hreset
    rw [step_of_script_cons hs, hostEvent_of_resets he] at h
    cases h
    exact ⟨rfl, rfl⟩
  · rename_i hno
    refine Phase.Edge.mem ?_
    rcases step_cases h with ⟨-, rfl⟩ | ⟨e, es, hs, he⟩
    · exact .stays _
    · exact hostEvent_edge (s := s.setScript es) (fun hr => hno (resetsNext_iff.mpr ⟨e, es, hs, hr⟩)) he

end Sys2Proof.Machine

/-! # Reset and hazards family: power-on, runs of a script, who writes OUT, and configuration writes in a session -/

/-! ## Power-on (70_reset_and_hazards.md R320, R321) -/

namespace Sys2Proof.Machine

theorem readReg_reset (r : Reg) : readReg State.reset r = resetWord Config.device r := readReg_resetWith ..

/-- Settles O18: at power-on the register file reads as the reset column of the register map. -/
theorem powerOnStateHoldsTheResetValues : Obligations.PowerOnStateHoldsTheResetValues := by
  unfold Obligations.PowerOnStateHoldsTheResetValues
  have h := readReg_reset
  exact ⟨h .id, h .status, h .arg0, h .arg1, h .width, h .height, h .scale, h .psize, h .quantum, h .outlen,
    h .nframes, h .hash, h .rectXY, h .rectWH, fun i => h (.pal i), rfl, rfl, rfl⟩

end Sys2Proof.Machine

/-! ## Who writes OUT (70_reset_and_hazards.md R333, 10_state.md R56) -/

namespace Sys2Proof.Machine

/-- The commands that write OUT and OUTLEN without resetting the block (R333). -/
def outWriters : List Instr := [.configure, .finish, .lzwEncode]

theorem mem_outWriters {i : Instr} : i ∈ outWriters ↔ i = .configure ∨ i = .finish ∨ i = .lzwEncode := by
  simp [outWriters]

@[simp] theorem reportRect_out (s : State) (o : Option Rect) : (reportRect s o).out = s.out := by cases o <;> rfl

theorem effect_out {i : Instr} (hi : i ≠ .softReset) (hw : i ∉ outWriters) (s : State) :
    (effect i s).out = s.out := by
  cases i with
  | nop | hashInit | hashExtend => rfl
  | softReset => exact absurd rfl hi
  | configure | finish | lzwEncode => exact absurd (by decide) hw
  | addFrame => rcases addFrameBody_cases s with ⟨-, he⟩ | ⟨-, -, he⟩ | ⟨-, -, he⟩ <;> simp [effect, he]
  | diffRect => rcases diffRectBody_cases s with ⟨-, he⟩ | ⟨-, -, he⟩ <;> simp [effect, he]
  | hashSeq => rcases hashSeqBody_cases s with ⟨-, he⟩ | ⟨-, he⟩ <;> simp [effect, he]

theorem allowed_lzwEncode {p : Phase} : allowed .lzwEncode p = true ↔ p = .idle := by cases p <;> decide

/-- The writers of OUT run only where a stream can begin or end (30_encoding.md R118). -/
theorem phase_of_allowed_outWriter {i : Instr} (hw : i ∈ outWriters) {p : Phase} (ha : allowed i p = true) :
    p = .idle ∨ p = .accumulating := by
  rcases mem_outWriters.mp hw with rfl | rfl | rfl
  · exact .inl (allowed_configure.mp ha)
  · exact .inr (allowed_finish.mp ha)
  · exact .inl (allowed_lzwEncode.mp ha)

/-- A command leaves OUT as it was, or it is a writer of OUT that the permission table lets run. -/
theorem exec_out {i : Instr} (hi : i ≠ .softReset) {s t : State} (h : exec i s = .next t) :
    t.out = s.out ∨ (s.phase = .idle ∨ s.phase = .accumulating) ∧ i ∈ outWriters := by
  rcases exec_cases h with ⟨ha, rfl⟩ | ⟨-, -, rfl⟩ | ⟨-, -, rfl⟩
  · by_cases hw : i ∈ outWriters
    · exact .inr ⟨phase_of_allowed_outWriter hw ha, hw⟩
    · exact .inl (effect_out hi hw s)
  · exact .inl rfl
  · exact .inl rfl

theorem illegalWord_out (s : State) : (illegalWord s).out = s.out := by
  unfold illegalWord
  split <;> rfl

theorem plainWrite_out (s : State) (a v : Word) : (plainWrite s a v).out = s.out := by
  rcases plainWrite_cases s a v with ⟨r, he⟩ | ⟨i, -, he⟩ | he <;> rw [he]
  · exact (writeReg_frame s v r).1
  · rfl

/-- A transaction that does not reset leaves OUT as it was, or it issues a writer of OUT. -/
theorem hostEvent_out {e : HostEvent} (hne : ¬ e.Resets) {s t : State} (h : hostEvent e s = .next t) :
    t.out = s.out ∨ (s.phase = .idle ∨ s.phase = .accumulating) ∧ ∃ i ∈ outWriters, e = issueCommand i := by
  rcases hostEvent_cases h with ⟨a, n, -, -, rfl⟩ | ⟨a, n, v, rfl, hok, rfl, hr⟩ | ⟨a, n, v, -, -, -, rfl⟩ | ⟨rfl, -⟩
  · exact .inl rfl
  · rcases runCommand_cases v s with ⟨i, hi, he⟩ | ⟨r, -, he⟩ <;> rw [he] at hr
    · have hv : v ≠ encode .softReset := fun hv => hne (HostEvent.resets_write.mpr ⟨hok, rfl, hv⟩)
      refine (exec_out (ne_softReset_of_decode hv hi) hr).imp_right fun ⟨hp, hw⟩ => ⟨hp, i, hw, ?_⟩
      rw [decode_eq_ok_iff.mp hi, (accessOk_iff.mp hok).1]
      rfl
    · cases hr
      exact .inl (illegalWord_out s)
  · exact .inl (plainWrite_out s a v)
  · exact absurd (.inl rfl) hne

/-- What the host sees of OUT follows from the buffer and the device. -/
theorem outByte_congr {s t : State} (hout : t.out = s.out) (hdev : t.dev = s.dev) (k : Nat) :
    t.outByte k = s.outByte k := by
  rw [State.outByte, State.outByte, hout, hdev]

/-- Settles O24: a visible change is a change of the buffer, and only a writer of OUT makes one. -/
theorem outChangesOnlyThroughItsWriters : Obligations.OutChangesOnlyThroughItsWriters := by
  unfold Obligations.OutChangesOnlyThroughItsWriters
  intro s t h hno hchange
  have hne : t.out ≠ s.out := fun hout => by
    rcases hchange with ⟨k, hk⟩ | hlen
    · exact hk (outByte_congr hout (step_dev h) k)
    · exact hlen (congrArg OutBuf.len hout)
  rcases step_cases h with ⟨-, rfl⟩ | ⟨e, es, hs, he⟩
  · exact absurd rfl hne
  · have hr : ¬ e.Resets := fun hr => by simp [resetsNext_iff.mpr ⟨e, es, hs, hr⟩] at hno
    rcases hostEvent_out (s := s.setScript es) hr he with hout | ⟨hp, i, hw, rfl⟩
    · exact absurd hout hne
    · refine ⟨hp, es, ?_⟩
      rcases mem_outWriters.mp hw with rfl | rfl | rfl
      · exact .inl hs
      · exact .inr (.inl hs)
      · exact .inr (.inr hs)

end Sys2Proof.Machine

/-! ## Changes of state that a command carries along -/

namespace Sys2Proof.Machine

/-- A command carries a change `f` of the state along when its effect and fault entry do, and `f` keeps STATE. -/
theorem exec_carries {f : State → State} {i : Instr} {s t : State} (hphase : (f s).phase = s.phase)
    (hraise : raiseFault .badState (f s) = f (raiseFault .badState s)) (heffect : effect i (f s) = f (effect i s))
    (h : exec i s = .next t) : exec i (f s) = .next (f t) := by
  rcases exec_cases h with ⟨ha, rfl⟩ | ⟨ha, hf, rfl⟩ | ⟨ha, hf, rfl⟩
  · rw [exec_eq_issue, issue, hphase, if_pos ha, heffect]
  · rw [exec_eq_issue, issue, hphase, if_neg (Bool.eq_false_iff.mp ha), if_pos hf]
  · rw [exec_eq_issue, issue, hphase, if_neg (Bool.eq_false_iff.mp ha), if_neg hf, hraise]

/-! ### What FINISH reads -/

section FinishCongr

variable {s t : State} (hdev : t.dev = s.dev) (hsession : t.session = s.session) (hframes : t.frames = s.frames)

include hdev hsession hframes

theorem finishFrame_congr : finishFrame t = finishFrame s := by
  cases s
  cases t
  cases hdev
  cases hsession
  cases hframes
  rfl

theorem finishLoop_congr (fs : List Nat) : finishLoop t fs = finishLoop s fs := by
  induction fs with
  | nil => rfl
  | cons f fs ih =>
    funext k b
    simp only [finishLoop, finishFrame_congr hdev hsession hframes, ih]

/-- FINISH reads the device, the session, the frame store and OUT, and nothing else (40_container.md R160). -/
theorem finishOut_congr (hout : t.out = s.out) : finishOut t = finishOut s := by
  simp only [finishOut, State.nframes, hdev, hsession, hframes, hout, finishLoop_congr hdev hsession hframes]

end FinishCongr

end Sys2Proof.Machine

/-! ## Register writes beside the session's commands (70_reset_and_hazards.md R331, 10_state.md R54) -/

namespace Sys2Proof.Machine

section RegisterWrite

variable (s : State) (v : Word) (r : Reg)

theorem raiseFault_writeReg (c : FaultCode) : raiseFault c (writeReg s v r) = writeReg (raiseFault c s) v r := by
  cases r <;> rfl

theorem setOut_writeReg (b : OutBuf) : (writeReg s v r).setOut b = writeReg (s.setOut b) v r := by cases r <;> rfl

theorem setPhase_writeReg (p : Phase) : (writeReg s v r).setPhase p = writeReg (s.setPhase p) v r := by
  cases r <;> rfl

theorem pushFrame_writeReg (f : List Nat) : (writeReg s v r).pushFrame f = writeReg (s.pushFrame f) v r := by
  cases r <;> rfl

theorem reportRect_writeReg (o : Option Rect) : reportRect (writeReg s v r) o = writeReg (reportRect s o) v r := by
  cases o <;> cases r <;> rfl

theorem inWords_writeReg (n : Nat) : (writeReg s v r).inWords n = s.inWords n := by cases r <;> rfl

theorem arg0_writeReg (hr : r ≠ .arg0) : (writeReg s v r).arg0 = s.arg0 := by
  cases r with
  | arg0 => exact absurd rfl hr
  | _ => rfl

theorem arg1_writeReg (hr : r ≠ .arg1) : (writeReg s v r).arg1 = s.arg1 := by
  cases r with
  | arg1 => exact absurd rfl hr
  | _ => rfl

theorem finishBody_writeReg : finishBody (writeReg s v r) = writeReg (finishBody s) v r := by
  obtain ⟨hout, -, -, hframes, hsession, hdev, -⟩ := writeReg_frame s v r
  rw [finishBody, finishBody, finishOut_congr hdev hsession hframes hout]
  cases finishOut s with
  | error e => simp only [raiseRunningFault, hout, setOut_writeReg, raiseFault_writeReg]
  | ok b => simp only [setOut_writeReg, setPhase_writeReg]

theorem addFrameBody_writeReg (h0 : r ≠ .arg0) : addFrameBody (writeReg s v r) = writeReg (addFrameBody s) v r := by
  obtain ⟨-, -, -, hframes, hsession, hdev, -⟩ := writeReg_frame s v r
  simp only [addFrameBody, State.arg0Nat, State.nframes, arg0_writeReg s v r h0, hframes, hsession, hdev,
    inWords_writeReg, raiseFault_writeReg, pushFrame_writeReg]
  split
  · rfl
  · split <;> rfl

theorem diffRectBody_writeReg (h0 : r ≠ .arg0) (h1 : r ≠ .arg1) :
    diffRectBody (writeReg s v r) = writeReg (diffRectBody s) v r := by
  obtain ⟨-, -, -, hframes, hsession, -⟩ := writeReg_frame s v r
  simp only [diffRectBody, State.arg0Nat, State.arg1Nat, State.nframes, State.frame, arg0_writeReg s v r h0,
    arg1_writeReg s v r h1, hframes, hsession, raiseFault_writeReg, reportRect_writeReg]
  split <;> rfl

/-- The session's commands read no register but ARG0 and ARG1, and write none that the host writes. -/
theorem effect_writeReg {i : Instr} (hi : i = .addFrame ∨ i = .finish ∨ i = .diffRect) (h0 : r ≠ .arg0)
    (h1 : r ≠ .arg1) : effect i (writeReg s v r) = writeReg (effect i s) v r := by
  rcases hi with rfl | rfl | rfl
  · exact addFrameBody_writeReg s v r h0
  · exact finishBody_writeReg s v r
  · exact diffRectBody_writeReg s v r h0 h1

end RegisterWrite

/-- Settles O57: no configuration register is ARG0 or ARG1. -/
theorem configurationWritesDoNotReachTheSession : Obligations.ConfigurationWritesDoNotReachTheSession := by
  unfold Obligations.ConfigurationWritesDoNotReachTheSession
  intro i r s t v hi hr h
  have hargs : r ≠ .arg0 ∧ r ≠ .arg1 := by
    rcases hr with rfl | rfl | rfl | rfl | rfl | ⟨k, rfl⟩ <;> exact ⟨Reg.noConfusion, Reg.noConfusion⟩
  exact exec_carries (f := fun s => writeReg s v r) (writeReg_keepsStatus s v r).1 (raiseFault_writeReg s v r _)
    (effect_writeReg s v r hi hargs.1 hargs.2) h

end Sys2Proof.Machine

/-! ## Runs of a script (70_reset_and_hazards.md R340, R341; 30_encoding.md R125) -/

namespace Sys2Proof.Machine

section OtherScript

variable (s : State) (es : List HostEvent)

theorem configureRun_setScript (p : PaletteSize) :
    configureRun (s.setScript es) p = (configureRun s p).setScript es := by
  have hlatched : (s.setScript es).latched p = s.latched p := rfl
  simp only [configureRun, hlatched, setScript_dev, setScript_out]
  cases outAppendAll s.dev.outBytes s.out.clear (headerBytes (s.latched p)) <;> rfl

theorem configureBody_setScript : configureBody (s.setScript es) = (configureBody s).setScript es := by
  by_cases h : ∃ p, configurable s p
  · obtain ⟨p, hc⟩ := h
    rw [configureBody_of_configurable hc, configureBody_of_configurable (s := s.setScript es) hc]
    exact configureRun_setScript s es p
  · have hno : ∀ p, ¬ configurable s p := not_exists.mp h
    rw [configureBody_of_not_configurable hno, configureBody_of_not_configurable (s := s.setScript es) hno]
    rfl

theorem addFrameBody_setScript : addFrameBody (s.setScript es) = (addFrameBody s).setScript es := by
  rcases addFrameBody_cases s with ⟨h, he⟩ | ⟨h, hn, he⟩ | ⟨h, hn, he⟩ <;> rw [he]
  · exact if_pos h
  · exact (if_neg (not_not.mpr h)).trans (if_pos hn)
  · exact (if_neg (not_not.mpr h)).trans (if_neg hn)

theorem finishBody_setScript : finishBody (s.setScript es) = (finishBody s).setScript es := by
  rw [finishBody, finishBody, finishOut_congr (s := s) (t := s.setScript es) rfl rfl rfl rfl]
  cases finishOut s <;> rfl

theorem reportRect_setScript (o : Option Rect) : reportRect (s.setScript es) o = (reportRect s o).setScript es := by
  cases o <;> rfl

theorem diffRectBody_setScript : diffRectBody (s.setScript es) = (diffRectBody s).setScript es := by
  rcases diffRectBody_cases s with ⟨h, he⟩ | ⟨h0, h1, he⟩ <;> rw [he]
  · exact diffRectBody_of_le (s := s.setScript es) h
  · rw [diffRectBody_of_lt (s := s.setScript es) h0 h1, reportRect_setScript]
    rfl

theorem lzwEncodeRun_setScript (p : PaletteSize) :
    lzwEncodeRun (s.setScript es) p = (lzwEncodeRun s p).setScript es := by
  have hsymbols : (s.setScript es).symbols = s.symbols := rfl
  simp only [lzwEncodeRun, hsymbols, setScript_dev, setScript_out]
  cases lzwStream s.dev p s.symbols with
  | error f => rfl
  | ok bytes =>
    dsimp only
    cases outAppendAll s.dev.outBytes s.out.clear bytes <;> rfl

theorem lzwEncodeBody_setScript : lzwEncodeBody (s.setScript es) = (lzwEncodeBody s).setScript es := by
  simp only [lzwEncodeBody, State.arg0Nat, setScript_psize, setScript_dev, setScript_arg0, lzwEncodeRun_setScript]
  cases PaletteSize.ofReg s.psize with
  | none => rfl
  | some p =>
    dsimp only
    split
    · rfl
    · split <;> rfl

theorem hashSeqBody_setScript : hashSeqBody (s.setScript es) = (hashSeqBody s).setScript es := by
  rcases hashSeqBody_cases s with ⟨h, he⟩ | ⟨h, he⟩ <;> rw [he]
  · exact hashSeqBody_of_lt (s := s.setScript es) h
  · exact hashSeqBody_of_le (s := s.setScript es) h

theorem effect_setScript (i : Instr) : effect i (s.setScript es) = (effect i s).setScript es := by
  cases i with
  | nop | softReset | hashInit | hashExtend => rfl
  | configure => exact configureBody_setScript s es
  | addFrame => exact addFrameBody_setScript s es
  | finish => exact finishBody_setScript s es
  | diffRect => exact diffRectBody_setScript s es
  | lzwEncode => exact lzwEncodeBody_setScript s es
  | hashSeq => exact hashSeqBody_setScript s es

theorem illegalWord_setScript : illegalWord (s.setScript es) = (illegalWord s).setScript es := by
  unfold illegalWord
  rw [setScript_phase]
  split <;> rfl

theorem plainWrite_setScript (a v : Word) : plainWrite (s.setScript es) a v = (plainWrite s a v).setScript es := by
  unfold plainWrite
  split
  · cases Reg.ofOffset a.toNat with
    | none => rfl
    | some r => cases r <;> rfl
  · rw [setScript_dev]
    split
    · split <;> rfl
    · rfl

end OtherScript

theorem runCommand_setScript {w : Word} {s t : State} (h : runCommand w s = .next t) (es : List HostEvent) :
    runCommand w (s.setScript es) = .next (t.setScript es) := by
  unfold runCommand at h ⊢
  cases hw : decode w with
  | ok i =>
    rw [hw] at h
    exact exec_carries (f := (State.setScript · es)) rfl rfl (effect_setScript s es i) h
  | error r =>
    rw [hw] at h
    cases h
    exact congrArg _ (illegalWord_setScript s es)

/-- A transaction does not depend on those the host has still to send. -/
theorem hostEvent_setScript {e : HostEvent} {s t : State} (h : hostEvent e s = .next t) (es : List HostEvent) :
    hostEvent e (s.setScript es) = .next (t.setScript es) := by
  rcases hostEvent_cases h with ⟨a, n, rfl, hok, rfl⟩ | ⟨a, n, v, rfl, hok, rfl, hr⟩ | ⟨a, n, v, rfl, hok, ha, rfl⟩ |
    ⟨rfl, rfl⟩
  · rw [hostEvent_read hok]
    rfl
  · rw [hostEvent_write hok, memWrite_cmd]
    exact runCommand_setScript hr es
  · rw [hostEvent_write hok, memWrite_of_ne_cmd ha, plainWrite_setScript]
  · rfl

theorem run_succ_of_step {s t : State} (h : step s = .next t) (k : Nat) :
    Host.Core.run core (k + 1) s = Host.Core.run core k t := by
  have hstep : core.step s = .next t := h
  simp only [Host.Core.run, hstep]

/-- The run of a script is its transactions in order: one step takes each of them. -/
theorem run_of_script (es : List HostEvent) : ∀ s : State, s.script = es → (∀ e ∈ es, e.wf = true) →
    ∃ t, Host.Core.run core es.length s = .next t ∧ t.script = [] ∧ runEvents es (s.setScript []) = .next t := by
  induction es with
  | nil =>
    intro s hs _
    have hnil : s.setScript [] = s := by rw [State.setScript, ← hs]
    exact ⟨s, rfl, hs, by rw [hnil, runEvents_nil]⟩
  | cons e es ih =>
    intro s hs hwf
    obtain ⟨u, hu⟩ := hostEvent_next (hwf e List.mem_cons_self) s
    obtain ⟨t, hrun, ht, hevents⟩ := ih (u.setScript es) rfl fun e' he' => hwf e' (List.mem_cons_of_mem e he')
    have hstep : step s = .next (u.setScript es) := (step_of_script_cons hs).trans (hostEvent_setScript hu es)
    refine ⟨t, (run_succ_of_step hstep es.length).trans hrun, ht, ?_⟩
    rw [runEvents_cons (hostEvent_setScript hu [])]
    exact hevents

/-- Settles O5, by induction on the transactions of the script. -/
theorem everyScriptRunsToItsEnd : Obligations.EveryScriptRunsToItsEnd := by
  unfold Obligations.EveryScriptRunsToItsEnd
  intro s hwf
  exact run_of_script s.script s rfl hwf

end Sys2Proof.Machine

/-! ## The standard decoder reads an exact-key run back (90_conflicts.md C5, 95_test_vectors.md V10, V22, V24) -/

namespace Sys2Proof.Machine

/-! ### The decoder between two codes -/

section DecodeEntry

variable {p : PaletteSize} {table : List (List Nat)} {c : Nat}

/-- The code one past the table has no sequence yet. -/
theorem decodeEntry_length (p : PaletteSize) (table : List (List Nat)) :
    decodeEntry p table (seedSize p + table.length) = none := by
  have hpal : ¬ seedSize p + table.length < p.toNat := by unfold seedSize; omega
  rw [decodeEntry, if_neg hpal, if_neg (by omega), Nat.add_sub_cancel_left]
  exact List.getElem?_eq_none (Nat.le_refl _)

/-- A new entry takes the code one past the table and leaves the other codes as they are. -/
theorem decodeEntry_concat (p : PaletteSize) (table : List (List Nat)) (s : List Nat) (c : Nat) :
    decodeEntry p (table ++ [s]) c =
      if c = seedSize p + table.length then some s else decodeEntry p table c := by
  have hseed : p.toNat ≤ seedSize p := Nat.le_add_right _ _
  unfold decodeEntry
  split
  · rw [if_neg (by omega)]
  · split
    · rw [if_neg (by omega)]
    · rw [List.getElem?_append, List.getElem?_singleton]
      grind

theorem decodeEntry_append_of_eq_some {q : List Nat} (h : decodeEntry p table c = some q) (s : List Nat) :
    decodeEntry p (table ++ [s]) c = some q := by
  rw [decodeEntry_concat, if_neg, h]
  rintro rfl
  rw [decodeEntry_length] at h
  cases h

/-- The two reserved codes stand for no sequence (41_lzw.md R202). -/
theorem ne_reserved_of_decodeEntry {q : List Nat} (h : decodeEntry p table c = some q) :
    c ≠ eoiCode p ∧ c ≠ clearCode p := by
  constructor <;> rintro rfl <;> simp [decodeEntry, eoiCode, clearCode, seedSize] at h

end DecodeEntry

/-- The decoder between two codes: its entries, the sequence of the previous code, and the symbols read so far. -/
structure Decoder where
  entries : List (List Nat)
  prev : Option (List Nat)
  out : List Nat

/-- What the decoder answers on the codes to come. -/
def Decoder.read (p : PaletteSize) (D : Decoder) (cs : List Nat) : Option (List Nat) :=
  (decodeCodes p D.entries D.prev cs).map (D.out ++ ·)

/-- The entries once the late one is added, when the next code stands for `q`: the previous sequence and the first
symbol of `q`. -/
def Decoder.table (D : Decoder) (q : List Nat) : List (List Nat) :=
  D.entries ++ D.prev.toList.map (· ++ q.take 1)

/-- The decoder after a code that stands for `q`. -/
def Decoder.next (D : Decoder) (q : List Nat) : Decoder := ⟨D.table q, some q, D.out ++ q⟩

/-- The decoder after a clear code. -/
def Decoder.cleared (D : Decoder) : Decoder := ⟨[], none, D.out⟩

section DecoderCodes

variable {p : PaletteSize} {D : Decoder} {q : List Nat} {c : Nat}

theorem Decoder.read_eoi (p : PaletteSize) (D : Decoder) : D.read p [eoiCode p] = some D.out := by
  simp [Decoder.read, decodeCodes]

theorem Decoder.read_clear (p : PaletteSize) (D : Decoder) (cs : List Nat) :
    D.read p (clearCode p :: cs) = D.cleared.read p cs := by
  simp [Decoder.read, Decoder.cleared, decodeCodes, clearCode, eoiCode]

/-- The late entry does not matter for what a code stands for: where the code is that very entry, `q` begins as the
previous sequence `b` does. -/
theorem decodeEntry_late {entries : List (List Nat)} {b : List Nat} (hb : b ≠ [])
    (h : decodeEntry p (entries ++ [b ++ q.take 1]) c = some q) :
    decodeEntry p (entries ++ [b ++ b.take 1]) c = some q := by
  rw [decodeEntry_concat] at h ⊢
  split
  · rename_i hlast
    rw [if_pos hlast] at h
    have hq : b ++ q.take 1 = q := Option.some.inj h
    have hfirst : q.take 1 = b.take 1 := by
      rw [← hq, List.take_append_of_le_length (List.length_pos_of_ne_nil hb)]
    rw [← hfirst, hq]
  · rename_i hlast
    rwa [if_neg hlast] at h

/-- A code that stands for `q` in the table yields `q`, although the decoder's own table is one entry late. -/
theorem Decoder.read_entry (hprev : D.prev ≠ some []) (h : decodeEntry p (D.table q) c = some q) (cs : List Nat) :
    D.read p (c :: cs) = (D.next q).read p cs := by
  obtain ⟨heoi, hclear⟩ := ne_reserved_of_decodeEntry h
  obtain ⟨entries, prev, out⟩ := D
  cases prev with
  | none =>
    simp only [Decoder.table, Option.toList_none, List.map_nil, List.append_nil] at h
    simp [Decoder.read, Decoder.next, Decoder.table, decodeCodes, heoi, hclear, h, Function.comp_def]
  | some b =>
    have hb : b ≠ [] := fun hnil => hprev (congrArg some hnil)
    simp [Decoder.read, Decoder.next, Decoder.table, decodeCodes, heoi, hclear, decodeEntry_late hb h,
      Function.comp_def]

/-- A longer match leaves the entry that is being added as it is. -/
theorem Decoder.table_append (hq : q ≠ []) (x : Nat) : D.table (q ++ [x]) = D.table q := by
  rw [Decoder.table, Decoder.table, List.take_append_of_le_length (List.length_pos_of_ne_nil hq)]

theorem Decoder.table_next (D : Decoder) (q : List Nat) (x : Nat) :
    (D.next q).table [x] = D.table q ++ [q ++ [x]] := rfl

end DecoderCodes

/-! ### The compressor's dictionary is the decoder's table -/

/-- Every code of the dictionary stands, in the decoder's table, for the sequence that is its key. -/
def TableHolds (p : PaletteSize) (table : List (List Nat)) (d : Dict) : Prop :=
  ∀ e ∈ d, (decodeEntry p table e.2).map Key.sequence = some e.1

section TableHolds

variable {p : PaletteSize} {table : List (List Nat)} {d : Dict}

theorem tableHolds_seedDict (p : PaletteSize) : TableHolds p [] (seedDict .exactSeq p) := by
  intro e he
  obtain ⟨i, hi, rfl⟩ := List.mem_map.mp he
  simp [decodeEntry, List.mem_range.mp hi, key1]

theorem TableHolds.cons (h : TableHolds p table d) (s : List Nat) :
    TableHolds p (table ++ [s]) ((.sequence s, seedSize p + table.length) :: d) := by
  refine List.forall_mem_cons.mpr ⟨by simp [decodeEntry_concat], fun e he => ?_⟩
  obtain ⟨q, hq, hkey⟩ := Option.map_eq_some_iff.mp (h e he)
  rw [decodeEntry_append_of_eq_some hq, Option.map_some, hkey]

theorem TableHolds.decodeEntry (h : TableHolds p table d) {q : List Nat} {c : Nat} (hmem : (.sequence q, c) ∈ d) :
    Machine.decodeEntry p table c = some q := by
  obtain ⟨q', hq', hkey⟩ := Option.map_eq_some_iff.mp (h _ hmem)
  rw [hq', Key.sequence.inj hkey]

end TableHolds

/-! ### The decoder goes beside the compressor -/

/-- A compressor that has read the symbols `done` and matches `q`, beside a decoder that has read its codes: the
symbols not decoded yet are the match, and the decoder's table is the compressor's. -/
structure Lzw.ReadBy (p : PaletteSize) (done : List Nat) (z : Lzw) (D : Decoder) (q : List Nat) : Prop where
  cur : z.cur = .sequence q
  cur_ne : q ≠ []
  out : D.out ++ q = done
  prev_ne : D.prev ≠ some []
  size : z.size = seedSize p + (D.table q).length
  dict : TableHolds p (D.table q) z.dict
  codes : ∀ cs, decodedSymbols p (z.codes ++ cs) = D.read p (cs.map Code.value)

section ReadBy

variable {p : PaletteSize} {done : List Nat} {z z' : Lzw} {D : Decoder} {q : List Nat} {x c : Nat}

theorem Lzw.readBy_start : (Lzw.start .exactSeq p x).ReadBy p [x] ⟨[], none, []⟩ [x] where
  cur := rfl
  cur_ne := List.cons_ne_nil _ _
  out := rfl
  prev_ne := nofun
  size := rfl
  dict := tableHolds_seedDict p
  codes cs := by simp [decodedSymbols, Lzw.start, Decoder.read]

/-- The code emitted for the match is read as the match. -/
theorem Lzw.ReadBy.codes_concat (h : z.ReadBy p done D q) (hmem : (z.cur, c) ∈ z.dict) (w : Nat) (cs : List Code) :
    decodedSymbols p (z.codes ++ ⟨c, w⟩ :: cs) = (D.next q).read p (cs.map Code.value) := by
  have hentry : decodeEntry p (D.table q) c = some q := h.dict.decodeEntry (h.cur ▸ hmem)
  rw [h.codes, List.map_cons, Decoder.read_entry h.prev_ne hentry]

theorem Lzw.ReadBy.extended (h : z.ReadBy p done D q) (x : Nat) :
    { z with cur := keyext z.cur x }.ReadBy p (done ++ [x]) D (q ++ [x]) where
  cur := by rw [h.cur, keyext]
  cur_ne := by simp
  out := by rw [← h.out, List.append_assoc]
  prev_ne := h.prev_ne
  size := by rw [Decoder.table_append h.cur_ne]; exact h.size
  dict := by rw [Decoder.table_append h.cur_ne]; exact h.dict
  codes := h.codes

theorem Lzw.ReadBy.restarted (h : z.ReadBy p done D q) (hmem : (z.cur, c) ∈ z.dict) (x : Nat) :
    (z.restarted .exactSeq p x c).ReadBy p (done ++ [x]) (D.next q).cleared [x] where
  cur := rfl
  cur_ne := List.cons_ne_nil _ _
  out := congrArg (· ++ [x]) h.out
  prev_ne := nofun
  size := rfl
  dict := tableHolds_seedDict p
  codes cs := by
    rw [Lzw.restarted, List.append_assoc, List.cons_append, h.codes_concat hmem]
    exact Decoder.read_clear p _ _

theorem Lzw.ReadBy.registered (h : z.ReadBy p done D q) (hmem : (z.cur, c) ∈ z.dict) (x : Nat) :
    (z.registered .exactSeq x (keyext z.cur x) c).ReadBy p (done ++ [x]) (D.next q) [x] where
  cur := rfl
  cur_ne := List.cons_ne_nil _ _
  out := congrArg (· ++ [x]) h.out
  prev_ne hnil := h.cur_ne (Option.some.inj hnil)
  size := by rw [Decoder.table_next, List.length_append]; exact congrArg (· + 1) h.size
  dict := by
    rw [Decoder.table_next, Lzw.registered, h.cur, h.size]
    exact h.dict.cons (q ++ [x])
  codes cs := by
    rw [Lzw.registered, List.append_assoc, List.cons_append, h.codes_concat hmem]
    rfl

/-- The match is shorter than the new entry, so its code is an older one. -/
theorem Lzw.ReadBy.mem_of_miss (h : z.ReadBy p done D q)
    (hc : codeOf ((keyext z.cur x, z.size) :: z.dict) z.cur = .ok c) : (z.cur, c) ∈ z.dict := by
  refine (List.mem_cons.mp (mem_of_codeOf hc)).resolve_left fun heq => ?_
  have hkey : z.cur = keyext z.cur x := (Prod.mk.inj heq).1
  simp [h.cur, keyext] at hkey

theorem Lzw.ReadBy.feed (h : z.ReadBy p done D q) (hf : z.feed .exactSeq p x = .ok z') :
    ∃ D' q', z'.ReadBy p (done ++ [x]) D' q' := by
  rcases Lzw.feed_eq_ok hf with ⟨-, rfl⟩ | ⟨-, c, hc, rfl | rfl⟩
  · exact ⟨_, _, h.extended x⟩
  · exact ⟨_, _, h.restarted (h.mem_of_miss hc) x⟩
  · exact ⟨_, _, h.registered (h.mem_of_miss hc) x⟩

theorem Lzw.ReadBy.feedAll (xs : List Nat) : ∀ {done : List Nat} {z : Lzw} {D : Decoder} {q : List Nat},
    z.ReadBy p done D q → z.feedAll .exactSeq p xs = .ok z' → ∃ D' q', z'.ReadBy p (done ++ xs) D' q' := by
  induction xs with
  | nil =>
    intro done z D q h hf
    cases hf
    exact ⟨D, q, by rwa [List.append_nil]⟩
  | cons x xs ih =>
    intro done z D q h hf
    obtain ⟨z1, h1, hrest⟩ := Lzw.feedAll_cons_eq_ok hf
    obtain ⟨D1, q1, hr⟩ := h.feed h1
    rw [List.append_cons]
    exact ih hr hrest

/-- The final code and EOI complete the symbols (41_lzw.md R213, R214). -/
theorem Lzw.ReadBy.decodedSymbols_close (h : z.ReadBy p done D q) (hc : codeOf z.dict z.cur = .ok c) (w w' : Nat) :
    decodedSymbols p (z.codes ++ [⟨c, w⟩, ⟨eoiCode p, w'⟩]) = some done := by
  rw [h.codes_concat (mem_of_codeOf hc), ← h.out]
  exact Decoder.read_eoi p _

end ReadBy

/-- Settles O41: the decoder goes beside the compressor, one entry late, from the clear code to EOI. -/
theorem exactCodesDecodeToTheInput : Obligations.ExactCodesDecodeToTheInput := by
  unfold Obligations.ExactCodesDecodeToTheInput
  intro d p sym codes hd h
  obtain ⟨z, c, ⟨s0, rest, rfl, hz, hc⟩, rfl⟩ := lzwCodes_eq_ok.mp h
  rw [hd] at hz
  obtain ⟨D, q, hr⟩ := Lzw.readBy_start.feedAll rest hz
  exact hr.decodedSymbols_close hc _ _

end Sys2Proof.Machine
